-- ==== Sys2Proof/Word.lean ====
section
/-! DEFINITION. The word type: every value of the block is an unsigned byte (R12, R13). -/

namespace Sys2Proof

/-- A byte, bit 7 the most significant (R12). The counters `W` and `R` are bytes too (R22, R23): their
`+8` and `-8` of R13 are `BitVec 8`'s own wrapping addition and subtraction. -/
abbrev Byte := BitVec 8

end Sys2Proof
end

