-- ==== Sys2Proof/Config.lean ====
section
/-! DEFINITION. The block's constants (R8, R31). None is state and none can change (R31); these values are the only
ones the spec supports (U11, log 19). Nothing in the model is a free value: what the spec leaves unspecified
at reset is no value at all (`BUF`, log 5) or a value no step reads (`CMD`, log 6). -/

namespace Sys2Proof.Config

/-- `CAPACITY`: the ring buffer has 16 slots (R8). -/
def capacity : Nat := 16

/-- `INDEX_MASK`: a counter addresses the slot of its low four bits (R8, R51). -/
def indexMask : Byte := 0x0F

/-- `PUSH_LIMIT`: a push succeeds only while fewer than 15 bytes are occupied (R8, R25, C1). -/
def pushLimit : Nat := 15

/-- `MARKER`: the start marker, oldest byte first (R8, R31, R82, N14). -/
def marker : List Byte := [0xDE, 0xAD, 0xBE, 0xAF]

/-- `MARKER_LEN` (R8). -/
def markerLen : Nat := 4

/-- `READ_CMD` (R8, R83). -/
def readCmd : Byte := 0x01

/-- `WRITE_CMD` (R8, R83). -/
def writeCmd : Byte := 0x02

/-- `PAYLOAD_SIZE`, the length of a WRITE payload and of the stored value (R8, R9 (e)). -/
def payloadSize : Nat := 4

end Sys2Proof.Config
end

