-- ==== Sys2Proof/Syntax.lean ====
section
/-! DEFINITION. The instructions: the frames a peer sends, one constructor per row of the opcode table (R85, R88, R96). -/

namespace Sys2Proof

/-- One constructor per row of spec/opcode_table.json. The operands are the whole-byte fields of the frame that the
row leaves open (R80, R85): a WRITE's payload, and the command byte of the UNDEF rows whose pattern has free bits. -/
inductive Instr where
  /-- READ, format FR (R85, R140). -/
  | read
  /-- WRITE, format FW, with the payload bytes in arrival order (R84, R142). -/
  | write (p0 p1 p2 p3 : Byte)
  /-- UNDEF_00, format FU with command byte 0x00 (R144). -/
  | undef00
  /-- UNDEF_03, format FU with command byte 0x03 (R144). -/
  | undef03
  /-- UNDEF_04_07, format FU with the command byte given, one of 0x04 to 0x07 (R144). -/
  | undef04to07 (cmd : Byte)
  /-- UNDEF_08_0F (R144). -/
  | undef08to0F (cmd : Byte)
  /-- UNDEF_10_1F (R144). -/
  | undef10to1F (cmd : Byte)
  /-- UNDEF_20_3F (R144). -/
  | undef20to3F (cmd : Byte)
  /-- UNDEF_40_7F (R144). -/
  | undef40to7F (cmd : Byte)
  /-- UNDEF_80_FF (R144). -/
  | undef80toFF (cmd : Byte)
deriving DecidableEq, Repr

end Sys2Proof
end

