-- ==== Sys2Proof/WellFormed.lean ====
section
/-! DEFINITION. Well-formed instructions: an UNDEF row's command byte lies in that row (R96). -/

namespace Sys2Proof

/-- The command byte of an UNDEF row with free bits fits the row's pattern: `cmd & mask = match` on frame byte 4
(R96). The other rows leave nothing to check: a payload is any four bytes (R84, R87). -/
def Instr.wellFormed : Instr → Bool
  | .read => true
  | .write _ _ _ _ => true
  | .undef00 => true
  | .undef03 => true
  | .undef04to07 c => c &&& 0xFC == 0x04
  | .undef08to0F c => c &&& 0xF8 == 0x08
  | .undef10to1F c => c &&& 0xF0 == 0x10
  | .undef20to3F c => c &&& 0xE0 == 0x20
  | .undef40to7F c => c &&& 0xC0 == 0x40
  | .undef80toFF c => c &&& 0x80 == 0x80

end Sys2Proof
end

