-- ==== Sys2Proof/Decode.lean ====
section
/-! DEFINITION. From frame bytes to instructions and back, and the opcode table as data (R80 to R88, R96). -/

namespace Sys2Proof

/-- Why a list of bytes is no frame. -/
inductive Reject where
  /-- Fewer than the five bytes every frame has (R86). -/
  | tooShort
  /-- Five bytes or more whose first four are not the marker (R82). -/
  | badMarker
  /-- A WRITE whose four payload bytes are not all there (R84, R86). -/
  | payloadIncomplete
deriving DecidableEq, Repr

/-- The UNDEF row a command byte other than 1 and 2 selects (R88's third line, split as R96 splits it). -/
def undefInstr (c : Byte) : Instr :=
  if c = 0x00 then .undef00
  else if c = 0x03 then .undef03
  else if c &&& 0xFC = 0x04 then .undef04to07 c
  else if c &&& 0xF8 = 0x08 then .undef08to0F c
  else if c &&& 0xF0 = 0x10 then .undef10to1F c
  else if c &&& 0xE0 = 0x20 then .undef20to3F c
  else if c &&& 0xC0 = 0x40 then .undef40to7F c
  else .undef80toFF c

/-- The instruction a command byte selects, with the bytes that follow it (R83, R84, R86, R88, R127). All eight bits
of the command byte take part. Answers the instruction and the bytes after its frame. -/
def decodeCommand (c : Byte) (rest : List Byte) : Except Reject (Instr × List Byte) :=
  if c = Config.readCmd then .ok (.read, rest)
  else if c = Config.writeCmd then
    match rest with
    | p0 :: p1 :: p2 :: p3 :: after => .ok (.write p0 p1 p2 p3, after)
    | _ => .error .payloadIncomplete
  else .ok (undefInstr c, rest)

/-- The frame at the head of a list of bytes (R81, R85), total on any bytes: the instruction and the bytes after its
frame, or the reason why there is none. -/
def decode (bytes : List Byte) : Except Reject (Instr × List Byte) :=
  match bytes with
  | m0 :: m1 :: m2 :: m3 :: c :: rest =>
    if [m0, m1, m2, m3] = Config.marker then decodeCommand c rest else .error .badMarker
  | _ => .error .tooShort

/-- Frame byte 4 of an instruction (R83, R88). -/
def Instr.cmdByte : Instr → Byte
  | .read => Config.readCmd
  | .write _ _ _ _ => Config.writeCmd
  | .undef00 => 0x00
  | .undef03 => 0x03
  | .undef04to07 c => c
  | .undef08to0F c => c
  | .undef10to1F c => c
  | .undef20to3F c => c
  | .undef40to7F c => c
  | .undef80toFF c => c

/-- Frame bytes 5 to 8, which only a WRITE has (R84). -/
def Instr.payload : Instr → List Byte
  | .read => []
  | .write p0 p1 p2 p3 => [p0, p1, p2, p3]
  | .undef00 => []
  | .undef03 => []
  | .undef04to07 _ => []
  | .undef08to0F _ => []
  | .undef10to1F _ => []
  | .undef20to3F _ => []
  | .undef40to7F _ => []
  | .undef80toFF _ => []

/-- The frame of an instruction, first byte sent first (R81, R85). -/
def encode (i : Instr) : List Byte :=
  Config.marker ++ (i.cmdByte :: i.payload)

/-! ### The opcode table as data -/

/-- A row of the opcode table as R96 describes it: the frame's length, and `match` and `mask` over the frame's bytes
read as one number, byte 0 the most significant. -/
structure Row where
  lengthBytes : Nat
  pattern : Nat
  mask : Nat
deriving DecidableEq, Repr

/-- The ten rows of the table, in the table's order (R96). -/
def tableRows : List Row :=
  [ ⟨5, 0xDEADBEAF01, 0xFFFFFFFFFF⟩,
    ⟨9, 0xDEADBEAF0200000000, 0xFFFFFFFFFF00000000⟩,
    ⟨5, 0xDEADBEAF00, 0xFFFFFFFFFF⟩,
    ⟨5, 0xDEADBEAF03, 0xFFFFFFFFFF⟩,
    ⟨5, 0xDEADBEAF04, 0xFFFFFFFFFC⟩,
    ⟨5, 0xDEADBEAF08, 0xFFFFFFFFF8⟩,
    ⟨5, 0xDEADBEAF10, 0xFFFFFFFFF0⟩,
    ⟨5, 0xDEADBEAF20, 0xFFFFFFFFE0⟩,
    ⟨5, 0xDEADBEAF40, 0xFFFFFFFFC0⟩,
    ⟨5, 0xDEADBEAF80, 0xFFFFFFFF80⟩ ]

/-- The place in `tableRows` of an instruction's row. -/
def Instr.rowNumber : Instr → Nat
  | .read => 0
  | .write _ _ _ _ => 1
  | .undef00 => 2
  | .undef03 => 3
  | .undef04to07 _ => 4
  | .undef08to0F _ => 5
  | .undef10to1F _ => 6
  | .undef20to3F _ => 7
  | .undef40to7F _ => 8
  | .undef80toFF _ => 9

/-- A frame's bytes as one number, byte 0 the most significant: a device of the table only (R96). -/
def frameNumber (bytes : List Byte) : Nat :=
  bytes.foldl (fun acc b => acc * 256 + b.toNat) 0

/-- A frame selects a row when `(bytes & mask) = match` over the row's length (R96). -/
def Row.selects (row : Row) (bytes : List Byte) : Bool :=
  row.lengthBytes ≤ bytes.length && (frameNumber (bytes.take row.lengthBytes) &&& row.mask) == row.pattern

/-! ### The host's numbering of a table word -/

/-- Byte `n` of a number, byte 0 the least significant. -/
def byteOfNat (w n : Nat) : Byte :=
  BitVec.ofNat 8 (w >>> (8 * n))

/-- The frame bytes of a number whose bits 7 to 0 are the first byte, bits 15 to 8 the second, and so on. -/
def bytesFirstLow (n w : Nat) : List Byte :=
  (List.range n).map (fun k => byteOfNat w k)

/-- The frame bytes of a number whose first byte is the most significant, as R96 writes `match` and `mask`. -/
def bytesFirstHigh (n w : Nat) : List Byte :=
  (List.range n).map (fun k => byteOfNat w (n - 1 - k))

/-- The length of the longest frame (R86). -/
def longestFrame : Nat := 9

/-- The bytes of an instruction given as a number of `nbits` bits, filled with zero bytes to the longest frame. Two
numberings are accepted: first byte least significant (the interface's), and first byte most significant (R96's,
the table's own). The marker tells them apart: a number that starts with the marker under both is the same frame
under both. DESIGN CHOICE, log 11. -/
def tableBytes (nbits w : Nat) : List Byte :=
  let n := nbits / 8
  let low := bytesFirstLow n w
  let high := bytesFirstHigh n w
  (if high.take Config.markerLen = Config.marker then high else low) ++ List.replicate (longestFrame - n) 0

/-- The instruction the decoder reads from a table word. -/
def decodeTableWord (nbits w : Nat) : Option Instr :=
  match decode (tableBytes nbits w) with
  | .ok (i, _) => some i
  | .error _ => none

end Sys2Proof
end

