-- ==== Sys2Proof/Machine/State.lean ====
section
/-! DEFINITION. The machine's state, the reasons it can stop, and the state after reset (R20, R38). -/

namespace Sys2Proof.Machine

/-- The memory `BUF`: the slots that hold a value, as pairs of slot number and byte, slot numbers strictly rising.
A slot that is not listed holds no value: nothing has been pushed into it since reset (R38, D3, log 5). -/
abbrev Memory := List Host.Cell

/-- The reason for which a step can fault. -/
inductive Fault where
  /-- A peek reads a slot that no push has written since reset, whose value the spec leaves unspecified (R38, D3, U4).
  Raised by `peek`. Safe: no step from a state that satisfies the invariants reaches it. -/
  | slotNeverWritten
deriving DecidableEq, Repr

/-- The reasons for which the model gives no meaning. -/
inductive Refusal where
  /-- An instruction that has no meaning yet. Raised by no arm of this model. Safe. -/
  | notModelled (mnemonic : String)
  /-- A command given to `exec` while the parser is not dispatching that command (R127, R196, U12, log 8). Raised by
  the meanings. Safe: the Consumer only executes the command it is dispatching. -/
  | notDispatched
  /-- `peek(k)` with `k` at or beyond the occupied length (R103 (d), D20, U3, log 9). Raised by `peek`. Safe. -/
  | peekBeyondOccupied
  /-- `consume(n)` with `n` above the occupied length (R104 (c), D20, U2, log 9). Raised by `consume`. Safe. -/
  | consumeBeyondOccupied
deriving DecidableEq, Repr

/-- StoredValue: four bytes in arrival order, `SV[0]` first (R26, R53). -/
structure StoredValue where
  b0 : Byte
  b1 : Byte
  b2 : Byte
  b3 : Byte
deriving DecidableEq, Repr

/-- The FrameParser's state `PS` (R27). The spec gives no encoding of the three values (D17). -/
inductive ParserState where
  | idle
  | markerFound
  | dispatching
deriving DecidableEq, Repr

/-- The PowerController's state `PW` (R30, R160). The spec gives no encoding of the two values (D17). -/
inductive PowerState where
  | active
  | asleep
deriving DecidableEq, Repr

/-- One entry of a schedule: which agent moves next, or what the Environment does (R11, R18, R32). -/
inductive Turn where
  /-- The Environment raises `RX(b)`: one Producer step (R164). -/
  | rx (b : Byte)
  /-- The Environment raises `WAKEPIN`: one WakeHandler step (R165). -/
  | wakePin
  /-- The Environment sets the level of `tx_ready` (R32, R94 `TXRDY`). -/
  | txReady (level : Bool)
  /-- The Environment raises `RESET` (R210). -/
  | reset
  /-- The Consumer moves once. -/
  | consumer
  /-- The Consumer moves until it has no enabled step (R94 `RUN`). -/
  | run
deriving DecidableEq, Repr

/-- The Environment's side, the MODEL's own and no state of the block (R37, log 1): the turns still to come, the
level of the input `tx_ready`, and the record of the bytes transmitted since reset, oldest first (R33). -/
structure Env where
  sched : List Turn
  txReady : Bool
  tx : List Byte
deriving DecidableEq, Repr

/-- The block's eight items of state (R20), and beside them the Environment's side. -/
structure State where
  /-- `BUF`, the ring buffer's slots (R21). -/
  buf : Memory
  /-- `W`, the write counter (R22). -/
  w : Byte
  /-- `R`, the read counter and fetch pointer (R23, R40). -/
  r : Byte
  /-- `SV`, the stored value (R26). -/
  sv : StoredValue
  /-- `PS`, the parser's state (R27). -/
  ps : ParserState
  /-- `CMD`, the consumed command byte (R28). -/
  cmd : Byte
  /-- `TXI`, the index of the next reply byte (R29). -/
  txi : Fin 4
  /-- `PW`, the power state (R30). -/
  pw : PowerState
  /-- The Environment's side (log 1). -/
  env : Env
deriving DecidableEq, Repr

/-- The state after reset (R38). `BUF` holds no value (log 5) and `CMD` is 0x00 (log 6) where the spec leaves both
unspecified; `W` and `R` are 0x00 and `TXI` is 0 by the spec's decisions D2 and D4 (log 7). The Environment's side
starts with no turn listed, `tx_ready` true (log 4) and an empty transmit stream. -/
def State.reset : State where
  buf := []
  w := 0x00
  r := 0x00
  sv := ⟨0x00, 0x00, 0x00, 0x00⟩
  ps := .idle
  cmd := 0x00
  txi := 0
  pw := .active
  env := ⟨[], true, []⟩

end Sys2Proof.Machine
end

