-- ==== Sys2Proof/Machine/Flags.lean ====
section
/-! DEFINITION. The occupied length and the seven predicates the rules test (R24, R35, R102). The block stores no
flag: each is computed from the state at the moment of the test. -/

namespace Sys2Proof.Machine

/-- `occupiedLength()`, the 8-bit difference `W -8 R` read as an unsigned number (R24, R102, C2). -/
def occupiedLength (s : State) : Nat :=
  (s.w - s.r).toNat

/-- Push admitted: `occ < 15` (R35, R101). -/
def pushAdmitted (s : State) : Bool :=
  occupiedLength s < Config.pushLimit

/-- Scan possible: `occ > 4`, a strict threshold (R35, R122, R123, C3). -/
def scanPossible (s : State) : Bool :=
  Config.markerLen < occupiedLength s

/-- Marker matches: the four oldest bytes equal the marker in every bit (R35, R82, R123). -/
def markerMatches (oldestBytes : List Byte) : Bool :=
  oldestBytes = Config.marker

/-- Payload present: `occ >= 4` (R35, R143). -/
def payloadPresent (s : State) : Bool :=
  Config.payloadSize ≤ occupiedLength s

/-- Is read: `CMD = 1` (R35, R127). -/
def isRead (cmd : Byte) : Bool :=
  cmd = Config.readCmd

/-- Is write: `CMD = 2` (R35, R127). -/
def isWrite (cmd : Byte) : Bool :=
  cmd = Config.writeCmd

/-- Channel ready: the level of `tx_ready` now (R35, R141). -/
def channelReady (s : State) : Bool :=
  s.env.txReady

end Sys2Proof.Machine
end

