-- ==== Sys2Proof/Machine/Ops.lean ====
section
/-! DEFINITION. The named operations over memory, the counters and the control state, shared by every step
(R15, R51, R100 to R107, R128, R161). There is no operation that takes an exception and none that returns from one:
the block raises none (R180), and a handler saves and restores nothing (R189, R190). -/

namespace Sys2Proof.Machine

/-- What a step or a meaning answers. -/
abbrev Result := Host.Outcome State Fault Refusal

/-- Goes on with the value of an outcome, or stops as it stopped. -/
def andThen {α β : Type} (o : Host.Outcome α Fault Refusal) (f : α → Host.Outcome β Fault Refusal) :
    Host.Outcome β Fault Refusal :=
  match o with
  | .next a => f a
  | .fault e => .fault e
  | .refused e => .refused e

/-- A hold: the Consumer changes nothing (R16, R122, R143). DESIGN CHOICE of D8: a step that changes nothing, log 3. -/
def hold (s : State) : Result :=
  .next s

/-! ### Memory -/

/-- The byte a slot holds, if a push has written it since reset. -/
def Memory.read : Memory → Nat → Option Byte
  | [], _ => none
  | (a, b) :: rest, slot => if a = slot then some b else Memory.read rest slot

/-- Writes one slot and keeps slot numbers strictly rising. -/
def Memory.write : Memory → Nat → Byte → Memory
  | [], slot, v => [(slot, v)]
  | (a, b) :: rest, slot, v =>
    if slot < a then (slot, v) :: (a, b) :: rest
    else if slot = a then (slot, v) :: rest
    else (a, b) :: Memory.write rest slot v

/-- The canonical form above a bound: slot numbers rise strictly from `low`, and each is a slot of the buffer. -/
def Memory.wfFrom : Nat → Memory → Bool
  | _, [] => true
  | low, (a, _) :: rest => low ≤ a && a < Config.capacity && Memory.wfFrom (a + 1) rest

/-- The canonical form: slot numbers strictly rising, each one of the 16 slots (R50). -/
def Memory.wf (m : Memory) : Bool :=
  Memory.wfFrom 0 m

/-- The slot a counter value addresses: `c & 15` (R51). -/
def slotOf (c : Byte) : Nat :=
  (c &&& Config.indexMask).toNat

/-- `MemRead(a, 1)` (R15). -/
def memRead (s : State) (a : Byte) : Option Byte :=
  s.buf.read (slotOf a)

/-! ### Updates of one piece of state -/

/-- Sets `BUF`. -/
def State.setBuf (m : Memory) (s : State) : State := { s with buf := m }
/-- Sets `W`. -/
def State.setW (v : Byte) (s : State) : State := { s with w := v }
/-- Sets `R`. -/
def State.setR (v : Byte) (s : State) : State := { s with r := v }
/-- Sets `SV`. -/
def State.setSv (v : StoredValue) (s : State) : State := { s with sv := v }
/-- Sets `PS`. -/
def State.setPs (v : ParserState) (s : State) : State := { s with ps := v }
/-- Sets `CMD`. -/
def State.setCmd (v : Byte) (s : State) : State := { s with cmd := v }
/-- Sets `TXI`. -/
def State.setTxi (v : Fin 4) (s : State) : State := { s with txi := v }
/-- Sets `PW`. -/
def State.setPw (v : PowerState) (s : State) : State := { s with pw := v }
/-- Sets the turns still to come. -/
def State.setSched (l : List Turn) (s : State) : State := { s with env := { s.env with sched := l } }
/-- Sets the level of `tx_ready`. -/
def State.setTxReady (v : Bool) (s : State) : State := { s with env := { s.env with txReady := v } }
/-- Sets the record of the transmit stream. -/
def State.setTx (l : List Byte) (s : State) : State := { s with env := { s.env with tx := l } }

/-- `MemWrite(a, 1, v)` (R15). -/
def memWrite (a v : Byte) (s : State) : State :=
  s.setBuf (s.buf.write (slotOf a) v)

/-! ### The ring buffer's operations -/

/-- `push(b)`: store one received byte at the old `W`, then advance `W`; or drop it (R101). -/
def push (b : Byte) (s : State) : State :=
  if pushAdmitted s then (memWrite s.w b s).setW (s.w + 1) else s

/-- `peek(k)`: the byte `k` places after the oldest, without consuming it (R103). Outside the occupied window it is
refused (D20, U3, log 9). -/
def peek (k : Nat) (s : State) : Host.Outcome Byte Fault Refusal :=
  if k < occupiedLength s then
    match memRead s (s.r + BitVec.ofNat 8 k) with
    | some b => .next b
    | none => .fault .slotNeverWritten
  else .refused .peekBeyondOccupied

/-- `consume(n)`: `R <- R +8 n` (R104). It never waits; beyond the occupied length it is refused (D20, U2, log 9). -/
def consume (n : Nat) (s : State) : Result :=
  if n ≤ occupiedLength s then .next (s.setR (s.r + BitVec.ofNat 8 n)) else .refused .consumeBeyondOccupied

/-- `await(n)`: hold until `n` bytes are occupied, then go on (R105, R143). There is no timeout. -/
def await (n : Nat) (s : State) (go : State → Result) : Result :=
  if n ≤ occupiedLength s then go s else hold s

/-- `pop()`: `await(1)`, `peek(0)`, `consume(1)`, and go on with the byte (R106, D19). -/
def pop (s : State) (go : Byte → State → Result) : Result :=
  await 1 s fun s => andThen (peek 0 s) fun v => andThen (consume 1 s) fun s => go v s

/-! ### Output, power and completion -/

/-- `emit TX(b)`: the byte is handed to ByteChannel, which the record of the transmit stream shows (R16, R33). -/
def emit (b : Byte) (s : State) : State :=
  s.setTx (s.env.tx ++ [b])

/-- `SV[i]` (R14). -/
def StoredValue.byte (v : StoredValue) : Fin 4 → Byte
  | 0 => v.b0
  | 1 => v.b1
  | 2 => v.b2
  | 3 => v.b3

/-- `SV[0]` to `SV[3]`, in order (R53). -/
def StoredValue.bytes (v : StoredValue) : List Byte :=
  [v.b0, v.b1, v.b2, v.b3]

/-- `enterLowPower()`: `PW <- Asleep`, unconditional and at once (R161, D23). -/
def enterLowPower (s : State) : State :=
  s.setPw .asleep

/-- Completion of a command: first `PS <- Idle`, then the sleep request (R128). -/
def finishCommand (s : State) : State :=
  enterLowPower (s.setPs .idle)

/-- The wake: `PW <- Active` (R164, R165). -/
def wake (s : State) : State :=
  s.setPw .active

end Sys2Proof.Machine
end

