-- ==== Sys2Proof/Machine/Operands.lean ====
section
/-! DEFINITION. The operands a step takes from the ring buffer: the four oldest bytes of the marker test (R123) and
the payload of a WRITE (R84, R87, R142). -/

namespace Sys2Proof.Machine

/-- `peek(off)`, ..., `peek(off + n - 1)`, one byte at a time (R15, R55). -/
def peekFrom (s : State) : Nat → Nat → Host.Outcome (List Byte) Fault Refusal
  | _, 0 => .next []
  | off, n + 1 => andThen (peek off s) fun b => andThen (peekFrom s (off + 1) n) fun bs => .next (b :: bs)

/-- The `n` oldest bytes, oldest first. -/
def oldest (n : Nat) (s : State) : Host.Outcome (List Byte) Fault Refusal :=
  peekFrom s 0 n

/-- The operand bytes of the command in `CMD`: the payload of a WRITE once all four bytes are there, none otherwise
(R84, R86, R87, R142). -/
def operandBytes (s : State) : Host.Outcome (List Byte) Fault Refusal :=
  if isWrite s.cmd && payloadPresent s then oldest Config.payloadSize s else .next []

end Sys2Proof.Machine
end

