-- ==== Sys2Proof/Machine/Commands.lean ====
section
/-! DEFINITION. The meanings of the instructions: READ, WRITE and the eight UNDEF rows (R140 to R144). A meaning is
the Consumer's step in `PS = Dispatching` for that command; a READ takes four of them (R141 (a), log 12). -/

namespace Sys2Proof.Machine

/-- The command with byte `k` runs only while the parser dispatches it (R127, R140 to R144 "Enabled when"); elsewhere
the model gives it no meaning (R196, U12, log 8). While asleep the Consumer takes no step (R162). -/
def whenDispatched (k : Byte) (s : State) (body : State → Result) : Result :=
  if s.ps = .dispatching ∧ s.cmd = k then
    if s.pw = .active then body s else hold s
  else .refused .notDispatched

/-- READ-TX: one byte of the reply once the channel is ready; the fourth ends the command (R141). -/
def readTx (s : State) : Result :=
  if channelReady s then
    let sent := emit (s.sv.byte s.txi) s
    if s.txi = 3 then .next (finishCommand (sent.setTxi 0)) else .next (sent.setTxi (s.txi + 1))
  else hold s

/-- WRITE-CAPTURE: once four bytes are occupied, the payload becomes the stored value and is consumed (R142, R143). -/
def writeCapture (v : StoredValue) (s : State) : Result :=
  await Config.payloadSize s fun s =>
    andThen (consume Config.payloadSize (s.setSv v)) fun s => .next (finishCommand s)

/-- UNDEF: nothing, then completion, for a command byte that is neither 1 nor 2 (R144, R128, D10). -/
def undefStep (k : Byte) (s : State) : Result :=
  if isRead k || isWrite k then .refused .notDispatched
  else whenDispatched k s fun s => .next (finishCommand s)

/-- READ (R140, R141). -/
def execRead (s : State) : Result :=
  whenDispatched Config.readCmd s readTx

/-- WRITE with payload `p0 p1 p2 p3` (R142, R143). -/
def execWrite (p0 p1 p2 p3 : Byte) (s : State) : Result :=
  whenDispatched Config.writeCmd s (writeCapture ⟨p0, p1, p2, p3⟩)

/-- UNDEF_00 (R144). -/
def execUndef00 (s : State) : Result :=
  undefStep 0x00 s

/-- UNDEF_03 (R144). -/
def execUndef03 (s : State) : Result :=
  undefStep 0x03 s

/-- UNDEF_04_07 (R144). -/
def execUndef04to07 (cmd : Byte) (s : State) : Result :=
  undefStep cmd s

/-- UNDEF_08_0F (R144). -/
def execUndef08to0F (cmd : Byte) (s : State) : Result :=
  undefStep cmd s

/-- UNDEF_10_1F (R144). -/
def execUndef10to1F (cmd : Byte) (s : State) : Result :=
  undefStep cmd s

/-- UNDEF_20_3F (R144). -/
def execUndef20to3F (cmd : Byte) (s : State) : Result :=
  undefStep cmd s

/-- UNDEF_40_7F (R144). -/
def execUndef40to7F (cmd : Byte) (s : State) : Result :=
  undefStep cmd s

/-- UNDEF_80_FF (R144). -/
def execUndef80toFF (cmd : Byte) (s : State) : Result :=
  undefStep cmd s

end Sys2Proof.Machine
end

