-- ==== Sys2Proof/Machine/Dispatch.lean ====
section
/-! DEFINITION. One arm per instruction, each a direct call of its meaning (R88, R127). -/

namespace Sys2Proof.Machine

def exec (i : Instr) (s : State) : Host.Outcome State Fault Refusal :=
  match i with
  | .read => Sys2Proof.Machine.execRead s
  | .write p0 p1 p2 p3 => Sys2Proof.Machine.execWrite p0 p1 p2 p3 s
  | .undef00 => Sys2Proof.Machine.execUndef00 s
  | .undef03 => Sys2Proof.Machine.execUndef03 s
  | .undef04to07 cmd => Sys2Proof.Machine.execUndef04to07 cmd s
  | .undef08to0F cmd => Sys2Proof.Machine.execUndef08to0F cmd s
  | .undef10to1F cmd => Sys2Proof.Machine.execUndef10to1F cmd s
  | .undef20to3F cmd => Sys2Proof.Machine.execUndef20to3F cmd s
  | .undef40to7F cmd => Sys2Proof.Machine.execUndef40to7F cmd s
  | .undef80toFF cmd => Sys2Proof.Machine.execUndef80toFF cmd s

end Sys2Proof.Machine
end

