-- ==== Sys2Proof/Machine/Parser.lean ====
section
/-! DEFINITION. The FrameParser's fetch steps: Idle hold, MATCH, RESYNC and CMDFETCH (R120 to R126). -/

namespace Sys2Proof.Machine

/-- MATCH: consume the marker, go to `MarkerFound` (R124). -/
def matchStep (s : State) : Result :=
  andThen (consume Config.markerLen s) fun s => .next (s.setPs .markerFound)

/-- RESYNC: discard exactly one byte, wherever the mismatch is (R125). -/
def resyncStep (s : State) : Result :=
  consume 1 s

/-- The Consumer's step in `Idle`: hold while `occ <= 4`, else test the four oldest bytes (R122 to R125). -/
def idleStep (s : State) : Result :=
  if scanPossible s then
    andThen (oldest Config.markerLen s) fun bytes => if markerMatches bytes then matchStep s else resyncStep s
  else hold s

/-- CMDFETCH: the command byte is consumed into `CMD`, whatever its value (R126). -/
def cmdFetch (s : State) : Result :=
  pop s fun v s => .next ((s.setCmd v).setPs .dispatching)

end Sys2Proof.Machine
end

