-- ==== Sys2Proof/Machine/Power.lean ====
section
/-! DEFINITION. The event steps: the receive handler, the wake handler and hardware reset (R164, R165, R210). -/

namespace Sys2Proof.Machine

/-- The whole Producer step `on RX(b)`: push, and wake (R164, D5, log 14). -/
def onRx (b : Byte) (s : State) : State :=
  wake (push b s)

/-- The whole WakeHandler step `on WAKEPIN` (R165). -/
def onWakePin (s : State) : State :=
  wake s

/-- `RESET`: every item of the block at its reset value, and the transmit stream empty (R210, R211, D16, log 16). The
Environment's turns and its level of `tx_ready` are no state of the block and stay (R37, log 4). -/
def onReset (s : State) : State :=
  { State.reset with env := ⟨s.env.sched, s.env.txReady, []⟩ }

end Sys2Proof.Machine
end

