-- ==== Sys2Proof/Machine/Agents.lean ====
section
/-! DEFINITION. The Consumer's step, one turn of any agent, and the placing of a frame (R11, R18, R60, R120, R127). -/

namespace Sys2Proof.Machine

/-- The Consumer's step in `Dispatching`: the instruction is the command byte with its operand bytes, and it is
executed (R127). A WRITE whose payload is not all there is no instruction yet, and the Consumer holds (R143). -/
def dispatchStep (s : State) : Result :=
  andThen (operandBytes s) fun bytes =>
    match decodeCommand s.cmd bytes with
    | .ok (i, _) => exec i s
    | .error _ => hold s

/-- One step of the Consumer (R120); while asleep it takes none (R162). -/
def consumerStep (s : State) : Result :=
  match s.pw with
  | .asleep => hold s
  | .active =>
    match s.ps with
    | .idle => idleStep s
    | .markerFound => cmdFetch s
    | .dispatching => dispatchStep s

/-- The Consumer has an enabled step: it neither sleeps nor holds (R16, R122, R126, R141, R143, R162). -/
def consumerEnabled (s : State) : Bool :=
  match s.pw with
  | .asleep => false
  | .active =>
    match s.ps with
    | .idle => scanPossible s
    | .markerFound => 1 ≤ occupiedLength s
    | .dispatching =>
      if isRead s.cmd then channelReady s else if isWrite s.cmd then payloadPresent s else true

/-- `RUN`: while the Consumer has an enabled step it takes one and the turn stays; then the turn is over (R94, D22).
The state given has the turn taken off. -/
def runTurn (s : State) : Result :=
  if consumerEnabled s then consumerStep (s.setSched (.run :: s.env.sched)) else .next s

/-- One turn, already taken off the schedule. -/
def takeTurn (t : Turn) (s : State) : Result :=
  match t with
  | .rx b => .next (onRx b s)
  | .wakePin => .next (onWakePin s)
  | .txReady level => .next (s.setTxReady level)
  | .reset => .next (onReset s)
  | .consumer => consumerStep s
  | .run => runTurn s

/-- The next step of the machine: the turn at the head of the schedule; with none listed, the Consumer's (R18, R60,
R235, log 2). -/
def nextStep (s : State) : Result :=
  match s.env.sched with
  | [] => consumerStep s
  | t :: rest => takeTurn t (s.setSched rest)

/-! ### Placing a frame for the next step -/

/-- Stores bytes at a counter value and the ones after it. -/
def storeBytes : List Byte → Byte → State → State
  | [], _, s => s
  | b :: bs, a, s => storeBytes bs (a + 1) (memWrite a b s)

/-- The state an outcome answers, or the given one where it stopped. -/
def nextOr (s : State) (o : Result) : State :=
  match o with
  | .next t => t
  | .fault _ => s
  | .refused _ => s

/-- `s` with the bytes as the whole occupied window from `R` on, the parser scanning, the block awake, and a turn of the
Consumer next. -/
def placeFrame (bytes : List Byte) (s : State) : State :=
  (((((storeBytes bytes s.r s).setW (s.r + BitVec.ofNat 8 bytes.length)).setPs .idle).setTxi 0).setPw
    .active).setSched (.consumer :: s.env.sched)

/-- The two fetch steps MATCH and CMDFETCH, where the marker is there (R124, R126). -/
def fetchFrame (s : State) : State :=
  let found := nextOr s (idleStep s)
  if found.ps = .markerFound then nextOr s (cmdFetch found) else s

/-- `s` with the frame of a table word fetched, so that the next step executes it. It stands for the arrival of the
frame and the parser's two fetch steps (log 10). Bytes without a marker are only placed: the next step scans them. -/
def fetchTableWord (nbits w : Nat) (s : State) : State :=
  fetchFrame (placeFrame (tableBytes nbits w) s)

end Sys2Proof.Machine
end

