-- ==== Sys2Proof/Machine/Step.lean ====
section
/-! DEFINITION. The step function, and the placing of an instruction where the next step executes it. -/

namespace Sys2Proof.Machine

/-- One step of one agent (R18, R60). -/
def step (s : State) : Host.Outcome State Fault Refusal :=
  nextStep s

/-- `s` with the instruction whose bits are `w` fetched, so that the very next step executes it (log 10). -/
def State.withFetchWord (s : State) (nbits w : Nat) : State :=
  fetchTableWord nbits w s

end Sys2Proof.Machine
end

