-- ==== Sys2Proof/Machine/Stimuli.lean ====
section
/-! DEFINITION. The spec's own notation for stimuli, as turns of a schedule (R94, R95, D13). -/

namespace Sys2Proof.Machine

/-- One item of the notation (R94). -/
inductive Stimulus where
  /-- `READ`: one FR frame. -/
  | read
  /-- `WRITE a b c d`: one FW frame. -/
  | write (a b c d : Byte)
  /-- `CMD k`: one FU frame. -/
  | cmd (k : Byte)
  /-- `RAW b ...`: the listed bytes, not framed. -/
  | raw (bytes : List Byte)
  /-- `MARK`: `RAW DE AD BE AF` (R95). -/
  | mark
  /-- `WAKE`. -/
  | wake
  /-- `TXRDY 0`, `TXRDY 1`. -/
  | txRdy (level : Bool)
  /-- `RUN`. -/
  | run
  /-- `RESET`. -/
  | reset
deriving DecidableEq, Repr

/-- One `RX` per byte, in order (R94, R53 (a)). -/
def rxTurns (bytes : List Byte) : List Turn :=
  bytes.map Turn.rx

/-- What the Environment does for one item (R94). -/
def Stimulus.turns : Stimulus → List Turn
  | .read => rxTurns (encode .read)
  | .write a b c d => rxTurns (encode (.write a b c d))
  | .cmd k => rxTurns (Config.marker ++ [k])
  | .raw bytes => rxTurns bytes
  | .mark => rxTurns Config.marker
  | .wake => [.wakePin]
  | .txRdy level => [.txReady level]
  | .run => [.run]
  | .reset => [.reset]

/-- The burst schedule: one `RUN` at the very end (R95). -/
def burst (items : List Stimulus) : List Turn :=
  items.flatMap Stimulus.turns ++ [.run]

/-- The eager schedule: a `RUN` after everything the Environment does. R95 says after every item and the traces of
95_test_vectors.md run after every byte; the traces are followed (DEDUCED, log 17). -/
def eager (items : List Stimulus) : List Turn :=
  (items.flatMap Stimulus.turns).flatMap fun t => [t, .run]

end Sys2Proof.Machine
end

