-- ==== Sys2Proof/Safety.lean ====
section
/-! DEFINITION. What claims are stated in: the occupied window, the invariants of R39, why the Consumer waits, the silent
conditions of R181, runs of several steps, and a measure of the work left to the Consumer. -/

namespace Sys2Proof.Machine

/-- What the slots of the occupied window hold, oldest first (00_scope.md glossary, R39 I2). -/
def window (s : State) : List (Option Byte) :=
  (List.range (occupiedLength s)).map fun k => memRead s (s.r + BitVec.ofNat 8 k)

/-- The bytes pushed and not yet consumed, oldest first (R39 I2). Under `Invariants` every slot of the window holds one. -/
def queue (s : State) : List Byte :=
  (window s).filterMap id

/-- The invariants of R39 that speak of one state, with the canonical form of `BUF`. I6 and I7 speak of steps. -/
structure Invariants (s : State) : Prop where
  /-- I1: at most 15 bytes are occupied (R25). -/
  bound : occupiedLength s ≤ 15
  /-- I2: every slot of the occupied window holds a pushed byte, so no step reads an unspecified reset value. -/
  written : ∀ k < occupiedLength s, (memRead s (s.r + BitVec.ofNat 8 k)).isSome
  /-- I3: a marker is matched only with the command byte behind it (R124 (a)). -/
  fetched : s.ps = .markerFound → 1 ≤ occupiedLength s
  /-- I4: the block sleeps only between requests (R169). -/
  asleepIdle : s.pw = .asleep → s.ps = .idle
  /-- I5: the reply index is 0 outside a read reply (R29). -/
  txiZero : s.txi ≠ 0 → s.ps = .dispatching ∧ s.cmd = Config.readCmd
  /-- `BUF` is in canonical form. -/
  bufWf : s.buf.wf = true

/-- Why the Consumer has no enabled step (R122, R141, R143, R162). -/
inductive Wait where
  | idle
  | transmit
  | payload
  | asleep
deriving DecidableEq, Repr

/-- The Consumer's wait in a state, if it waits. -/
def waitingFor (s : State) : Option Wait :=
  match s.pw with
  | .asleep => some .asleep
  | .active =>
    if consumerEnabled s then none
    else match s.ps with
      | .idle => some .idle
      | .markerFound => some .idle
      | .dispatching => if isRead s.cmd then some .transmit else some .payload

/-- A wait that is a hang when it lasts: a termination claim counts it so (D8, R221, R222, U6, U7). -/
def Wait.isHang : Wait → Bool
  | .idle => false
  | .transmit => true
  | .payload => true
  | .asleep => false

/-- The silent conditions (R181), with the transmit stall R222 adds. None is a fault and none is recorded. -/
inductive SilentCondition where
  | overflow
  | mismatch
  | badCmd
  | stalledWrite
  | stalledRead
deriving DecidableEq, Repr

/-- A silent condition arises in a state: for OVERFLOW, in the event that a byte is received next. -/
def SilentCondition.arises (s : State) : SilentCondition → Bool
  | .overflow => !pushAdmitted s
  | .mismatch => s.pw = .active ∧ s.ps = .idle ∧ scanPossible s = true ∧ (queue s).take Config.markerLen ≠ Config.marker
  | .badCmd => s.pw = .active ∧ s.ps = .dispatching ∧ isRead s.cmd = false ∧ isWrite s.cmd = false
  | .stalledWrite => waitingFor s = some .payload
  | .stalledRead => waitingFor s = some .transmit

/-- `k` steps of the machine, stopping at the first fault or refusal. -/
def steps : Nat → State → Result
  | 0, s => .next s
  | k + 1, s => andThen (step s) (steps k)

/-- The turn taken in the next step: the head of the schedule, or the Consumer's. -/
def nextTurn (s : State) : Turn :=
  match s.env.sched with
  | [] => .consumer
  | t :: _ => t

/-- The state with that turn taken off. -/
def afterTurn (s : State) : State :=
  s.setSched s.env.sched.tail

/-- A measure of what the Consumer can still do without new input: no more than this many enabled steps (D22). -/
def work (s : State) : Nat :=
  match s.pw with
  | .asleep => 0
  | .active =>
    match s.ps with
    | .idle => occupiedLength s + 6
    | .markerFound => 6
    | .dispatching => if isRead s.cmd then 4 - s.txi.val else 1

end Sys2Proof.Machine
end

