-- ==== Sys2Proof/Safety/AbstractQueue.lean ====
section
/-! DEFINITION. The block as its users see it: a bounded first-in first-out queue feeding the parser, with no slots, no
counters and no wraps (R52, R68). The machine is claimed to refine it. -/

namespace Sys2Proof.Machine

/-- The abstract block: the queue of accepted bytes, oldest first, and the rest of the state as it is. -/
structure Abs where
  queue : List Byte
  sv : StoredValue
  ps : ParserState
  cmd : Byte
  txi : Fin 4
  pw : PowerState
  env : Env
deriving DecidableEq, Repr

/-- The abstract view of a state. -/
def abstractView (s : State) : Abs :=
  ⟨queue s, s.sv, s.ps, s.cmd, s.txi, s.pw, s.env⟩

/-- A command ends: `PS <- Idle`, `PW <- Asleep` (R128). -/
def Abs.finish (a : Abs) : Abs :=
  { a with ps := .idle, pw := .asleep }

/-- A received byte is appended while fewer than 15 are queued, and the block wakes (R101, R164). -/
def Abs.rx (b : Byte) (a : Abs) : Abs :=
  { a with queue := if a.queue.length < 15 then a.queue ++ [b] else a.queue, pw := .active }

/-- One byte of a reply (R141). -/
def Abs.reply (a : Abs) : Abs :=
  let sent := { a with env := { a.env with tx := a.env.tx ++ [a.sv.byte a.txi] } }
  if a.txi = 3 then Abs.finish { sent with txi := 0 } else { sent with txi := a.txi + 1 }

/-- The Consumer has an enabled step (R122, R126, R141, R143, R162). -/
def Abs.enabled (a : Abs) : Bool :=
  match a.pw, a.ps with
  | .asleep, _ => false
  | .active, .idle => 5 ≤ a.queue.length
  | .active, .markerFound => a.queue ≠ []
  | .active, .dispatching =>
    if a.cmd = 1 then a.env.txReady else if a.cmd = 2 then 4 ≤ a.queue.length else true

/-- The Consumer's step where it is enabled (R124 to R126, R141, R142, R144). -/
def Abs.work (a : Abs) : Abs :=
  match a.ps with
  | .idle =>
    if a.queue.take 4 = [0xDE, 0xAD, 0xBE, 0xAF] then { a with queue := a.queue.drop 4, ps := .markerFound }
    else { a with queue := a.queue.drop 1 }
  | .markerFound => { a with cmd := a.queue.headD 0, queue := a.queue.drop 1, ps := .dispatching }
  | .dispatching =>
    if a.cmd = 1 then a.reply
    else if a.cmd = 2 then
      match a.queue with
      | p0 :: p1 :: p2 :: p3 :: rest => Abs.finish { a with sv := ⟨p0, p1, p2, p3⟩, queue := rest }
      | _ => a
    else a.finish

/-- The Consumer's step: its work where it is enabled, else a hold. -/
def Abs.consumer (a : Abs) : Abs :=
  if a.enabled then a.work else a

/-- The abstract block after reset, on the Environment's side given (R210, D16). `CMD` is 0x00 by the model's choice, as in
`State.reset` (log 6). -/
def Abs.reset (e : Env) : Abs :=
  ⟨[], ⟨0, 0, 0, 0⟩, .idle, 0, 0, .active, { e with tx := [] }⟩

/-- One turn, already taken off the schedule. -/
def Abs.turn (t : Turn) (a : Abs) : Abs :=
  match t with
  | .rx b => a.rx b
  | .wakePin => { a with pw := .active }
  | .txReady level => { a with env := { a.env with txReady := level } }
  | .reset => Abs.reset a.env
  | .consumer => a.consumer
  | .run => if a.enabled then Abs.work { a with env := { a.env with sched := .run :: a.env.sched } } else a

/-- One step of the abstract block. -/
def Abs.step (a : Abs) : Abs :=
  match a.env.sched with
  | [] => a.consumer
  | t :: rest => Abs.turn t { a with env := { a.env with sched := rest } }

end Sys2Proof.Machine
end

