-- ==== Sys2Proof/Certificates/Slice0/Obligations.lean ====
section
/-! DEFINITION. The statements for the provers. A state's new value is written out as a record update, so that a
statement does not rest on the operation it is about. Numbers of the spec stand as numerals, not as Config's names. -/

open Sys2Proof Sys2Proof.Machine

/-! ### Encoding -/

/-- One frame per row of the opcode table, written out from the byte tables of R85 and the patterns of R96, decodes to
the instruction it stands for. -/
def Obligations.WrittenOutFramesDecode : Prop :=
  decode [0xDE, 0xAD, 0xBE, 0xAF, 0x01] = .ok (.read, []) ∧
  decode [0xDE, 0xAD, 0xBE, 0xAF, 0x02, 0x11, 0x22, 0x33, 0x44] = .ok (.write 0x11 0x22 0x33 0x44, []) ∧
  decode [0xDE, 0xAD, 0xBE, 0xAF, 0x00] = .ok (.undef00, []) ∧
  decode [0xDE, 0xAD, 0xBE, 0xAF, 0x03] = .ok (.undef03, []) ∧
  decode [0xDE, 0xAD, 0xBE, 0xAF, 0x07] = .ok (.undef04to07 0x07, []) ∧
  decode [0xDE, 0xAD, 0xBE, 0xAF, 0x08] = .ok (.undef08to0F 0x08, []) ∧
  decode [0xDE, 0xAD, 0xBE, 0xAF, 0x1F] = .ok (.undef10to1F 0x1F, []) ∧
  decode [0xDE, 0xAD, 0xBE, 0xAF, 0x2A] = .ok (.undef20to3F 0x2A, []) ∧
  decode [0xDE, 0xAD, 0xBE, 0xAF, 0x40] = .ok (.undef40to7F 0x40, []) ∧
  decode [0xDE, 0xAD, 0xBE, 0xAF, 0x81] = .ok (.undef80toFF 0x81, [])

/-- R83: the command field is frame byte 4, compared with 1 and with 2 in all eight bits: a frame is a READ exactly when
that byte is 1 and a WRITE exactly when it is 2. -/
def Obligations.CommandByteIsComparedWhole : Prop :=
  ∀ (c : Byte) (rest after : List Byte) (i : Instr), decode (0xDE :: 0xAD :: 0xBE :: 0xAF :: c :: rest) = .ok (i, after) →
    (i = .read ↔ c = 0x01) ∧ ((∃ p0 p1 p2 p3, i = .write p0 p1 p2 p3) ↔ c = 0x02) ∧ i.cmdByte = c

/-- The three formats of R85: what follows the marker and the command byte is the payload of a WRITE and of no other
frame (R84, R86), and every command byte other than 1 and 2 gives one of the UNDEF rows (R88). -/
def Obligations.FormatsDecodeForEveryOperand : Prop :=
  (∀ rest, decode (0xDE :: 0xAD :: 0xBE :: 0xAF :: 0x01 :: rest) = .ok (.read, rest)) ∧
  (∀ p0 p1 p2 p3 rest,
    decode (0xDE :: 0xAD :: 0xBE :: 0xAF :: 0x02 :: p0 :: p1 :: p2 :: p3 :: rest) = .ok (.write p0 p1 p2 p3, rest)) ∧
  (∀ k : Byte, k ≠ 0x01 → k ≠ 0x02 → ∃ i : Instr, i.wellFormed = true ∧ i.cmdByte = k ∧ 2 ≤ i.rowNumber ∧
    ∀ rest, decode (0xDE :: 0xAD :: 0xBE :: 0xAF :: k :: rest) = .ok (i, rest))

/-- Decoding an encoded well-formed instruction gives it back, whatever follows its frame. -/
def Obligations.DecodeOfEncodeIsTheInstruction : Prop :=
  ∀ (i : Instr) (rest : List Byte), i.wellFormed = true → decode (encode i ++ rest) = .ok (i, rest)

/-- Bytes that decode are the frame of the well-formed instruction they decode to, and the bytes after it. -/
def Obligations.DecodedBytesAreTheFrame : Prop :=
  ∀ (bytes rest : List Byte) (i : Instr), decode bytes = .ok (i, rest) → i.wellFormed = true ∧ bytes = encode i ++ rest

/-- Every list of bytes that is no frame is rejected for the reason that holds: too short for any frame, a difference
in any bit of the four marker bytes, or a WRITE without its whole payload (R82, R84, R86). -/
def Obligations.NonFramesAreRejectedByReason : Prop :=
  (∀ bytes : List Byte, decode bytes = .error .tooShort ↔ bytes.length < 5) ∧
  (∀ bytes : List Byte, decode bytes = .error .badMarker ↔
    5 ≤ bytes.length ∧ bytes.take 4 ≠ [0xDE, 0xAD, 0xBE, 0xAF]) ∧
  (∀ bytes : List Byte, decode bytes = .error .payloadIncomplete ↔
    ∃ rest, bytes = 0xDE :: 0xAD :: 0xBE :: 0xAF :: 0x02 :: rest ∧ rest.length < 4)

/-- The frame of a well-formed instruction, whatever follows it, selects its own row of the table and no other (R96). -/
def Obligations.EveryFrameSelectsItsRowAlone : Prop :=
  ∀ (i : Instr) (rest : List Byte) (n : Nat) (row : Row), i.wellFormed = true → tableRows[n]? = some row →
    (row.selects (encode i ++ rest) = true ↔ n = i.rowNumber)

/-- The model's choice of log 11: a table word is read under the interface's numbering, first byte least significant, and
under R96's, first byte most significant, and under both it is the same instruction. -/
def Obligations.TableWordsDecodeUnderBothNumberings : Prop :=
  ∀ i : Instr, i.wellFormed = true →
    decodeTableWord (8 * (encode i).length) (frameNumber (encode i)) = some i ∧
    decodeTableWord (8 * (encode i).length) (frameNumber (encode i).reverse) = some i

/-! ### Reset -/

/-- What R38 gives for reset: `SV` zero, `PS` Idle, `PW` Active, `W` = `R` = 0x00 and `TXI` = 0 (the spec's decisions D2 and
D4), an empty transmit stream. No slot of `BUF` holds a value: the model's choice of log 5 for "any 16 bytes". -/
def Obligations.ResetValues : Prop :=
  State.reset.sv = ⟨0x00, 0x00, 0x00, 0x00⟩ ∧ State.reset.ps = .idle ∧ State.reset.pw = .active ∧
  State.reset.w = 0x00 ∧ State.reset.r = 0x00 ∧ State.reset.txi = 0 ∧ State.reset.env.tx = [] ∧
  ∀ slot, State.reset.buf.read slot = none

/-- A `RESET` event puts the block in the reset state, from any state, and empties the transmit stream (R210, D16). `W`, `R`
and `TXI` are the spec's decisions D2 and D4 (log 7). `BUF` without a value and `CMD` 0x00, where R210 leaves both
unspecified, are the model's choices (log 5, log 6), and so is that the Environment's turns and its level of `tx_ready` stay
(log 4, log 16). -/
def Obligations.ResetEventRestoresResetState : Prop :=
  ∀ (s : State) (rest : List Turn), s.env.sched = .reset :: rest →
    step s = .next { State.reset with env := ⟨rest, s.env.txReady, []⟩ }

/-- The invariants of R39 hold after reset. -/
def Obligations.InvariantsHoldAtReset : Prop :=
  Invariants State.reset

/-! ### The ring buffer -/

/-- R101: a push stores the byte in the slot of the old `W` and advances `W` by one modulo 256 while fewer than 15 bytes
are occupied, and every other slot keeps its byte; with 15 or more the byte is dropped and nothing changes. -/
def Obligations.PushStoresOrDrops : Prop :=
  ∀ (b : Byte) (s : State),
    ((s.w - s.r).toNat < 15 →
      push b s = { s with buf := (push b s).buf, w := s.w + 1 } ∧
      (push b s).buf.read (s.w.toNat % 16) = some b ∧
      ∀ slot, slot ≠ s.w.toNat % 16 → (push b s).buf.read slot = s.buf.read slot) ∧
    (¬ (s.w - s.r).toNat < 15 → push b s = s)

/-- After any sequence of pushes the occupied length is the count pushed on top of what was there, and stays at 15 once
it is 15 (R102's property, R101, S1, S6). -/
def Obligations.OccupiedLengthCountsPushesUpToFifteen : Prop :=
  ∀ (bytes : List Byte) (s : State), occupiedLength s ≤ 15 →
    occupiedLength (bytes.foldl (fun t b => push b t) s) = min 15 (occupiedLength s + bytes.length)

/-- A peek inside the window answers the byte of slot `(R + k) & 15`, and no push, stored or dropped, changes what it
answers (R103 with (c), R69). -/
def Obligations.PeekReadsTheWindowWhateverIsPushed : Prop :=
  ∀ (s : State) (k : Nat) (v b : Byte), occupiedLength s ≤ 15 → k < occupiedLength s →
    s.buf.read ((s.r.toNat + k) % 16) = some v → peek k s = .next v ∧ peek k (push b s) = .next v

/-- R104: `consume(n)` of occupied bytes advances `R` by `n` modulo 256 and changes nothing else; `n` slots are freed. -/
def Obligations.ConsumeAdvancesReadCounter : Prop :=
  ∀ (s : State) (n : Nat), n ≤ occupiedLength s →
    ∃ t, consume n s = .next t ∧ t = { s with r := s.r + BitVec.ofNat 8 n } ∧
      occupiedLength t = occupiedLength s - n

/-- The spec's decision D20 (log 9): a peek or a consume outside the occupied window has no meaning. -/
def Obligations.UsesOutsideTheWindowAreRefused : Prop :=
  ∀ (s : State) (n : Nat),
    (occupiedLength s ≤ n → peek n s = .refused .peekBeyondOccupied) ∧
    (occupiedLength s < n → consume n s = .refused .consumeBeyondOccupied)

/-- `await(n)` goes on when `n` bytes are occupied and changes nothing before (R105); `pop()` takes the oldest byte, and
waits when there is none (R106, the spec's decision D19). -/
def Obligations.AwaitAndPopWaitForBytes : Prop :=
  (∀ (s : State) (n : Nat) (go : State → Result),
    (n ≤ occupiedLength s → await n s go = go s) ∧ (occupiedLength s < n → await n s go = .next s)) ∧
  (∀ (s : State) (v : Byte) (go : Byte → State → Result), 1 ≤ occupiedLength s →
    s.buf.read (s.r.toNat % 16) = some v → pop s go = go v { s with r := s.r + 1 }) ∧
  (∀ (s : State) (go : Byte → State → Result), occupiedLength s = 0 → pop s go = .next s)

/-- The FIFO law (R68): an accepted byte goes to the end of the queue of unconsumed bytes, a dropped one leaves no gap
and no mark, and consuming takes the oldest bytes off its front. -/
def Obligations.BytesLeaveInTheOrderTheyWerePushed : Prop :=
  ∀ s : State, Invariants s →
    (∀ b, queue (push b s) = if (queue s).length < 15 then queue s ++ [b] else queue s) ∧
    (∀ n t, consume n s = .next t → queue t = (queue s).drop n)

/-- Memories in canonical form that read alike at every slot are the same memory, so states are compared as data. -/
def Obligations.CanonicalMemoriesReadingAlikeAreEqual : Prop :=
  ∀ m m' : Memory, m.wf = true → m'.wf = true → (∀ slot, m.read slot = m'.read slot) → m = m'

/-! ### The parser -/

/-- R122: in Idle with at most four bytes occupied, were they the marker, the Consumer changes nothing. -/
def Obligations.IdleHoldsUntilFiveBytes : Prop :=
  ∀ s : State, s.pw = .active → s.ps = .idle → occupiedLength s ≤ 4 → consumerStep s = .next s

/-- R124: in Idle with more than four bytes occupied and the four oldest equal to the marker, `R` advances by 4, the
parser is in MarkerFound, nothing else changes, and the command byte is there. -/
def Obligations.MarkerMatchConsumesTheMarker : Prop :=
  ∀ s : State, s.pw = .active → s.ps = .idle → 4 < occupiedLength s →
    memRead s s.r = some 0xDE → memRead s (s.r + 1) = some 0xAD → memRead s (s.r + 2) = some 0xBE →
    memRead s (s.r + 3) = some 0xAF →
    ∃ t, consumerStep s = .next t ∧ t = { s with r := s.r + 4, ps := .markerFound } ∧ 1 ≤ occupiedLength t

/-- R125: in Idle with more than four bytes occupied and a mismatch at any position of the four oldest, exactly one byte
is discarded and nothing else changes. -/
def Obligations.MismatchDiscardsExactlyOneByte : Prop :=
  ∀ (s : State) (m0 m1 m2 m3 : Byte), s.pw = .active → s.ps = .idle → 4 < occupiedLength s →
    memRead s s.r = some m0 → memRead s (s.r + 1) = some m1 → memRead s (s.r + 2) = some m2 →
    memRead s (s.r + 3) = some m3 → (m0 ≠ 0xDE ∨ m1 ≠ 0xAD ∨ m2 ≠ 0xBE ∨ m3 ≠ 0xAF) →
    ∃ t, consumerStep s = .next t ∧ t = { s with r := s.r + 1 } ∧ 4 ≤ occupiedLength t

/-- R126: in MarkerFound the oldest byte, whatever its value, is consumed into `CMD` and the parser is Dispatching. -/
def Obligations.CommandFetchConsumesOneByte : Prop :=
  ∀ (s : State) (c : Byte), s.pw = .active → s.ps = .markerFound → 1 ≤ occupiedLength s → memRead s s.r = some c →
    consumerStep s = .next { s with r := s.r + 1, cmd := c, ps := .dispatching }

/-- R127: in Dispatching `CMD` selects the behaviour, with no further state change: 1 READ, 2 WRITE, of the four oldest
bytes once they are there and of any payload before, every other value the UNDEF row of that value. -/
def Obligations.CommandByteSelectsTheInstruction : Prop :=
  ∀ s : State, s.pw = .active → s.ps = .dispatching →
    (s.cmd = 0x01 → consumerStep s = exec .read s) ∧
    (∀ p0 p1 p2 p3, s.cmd = 0x02 → 4 ≤ occupiedLength s →
      memRead s s.r = some p0 → memRead s (s.r + 1) = some p1 → memRead s (s.r + 2) = some p2 →
      memRead s (s.r + 3) = some p3 → consumerStep s = exec (.write p0 p1 p2 p3) s) ∧
    (∀ p0 p1 p2 p3, s.cmd = 0x02 → occupiedLength s < 4 → consumerStep s = exec (.write p0 p1 p2 p3) s) ∧
    (s.cmd ≠ 0x01 → s.cmd ≠ 0x02 → ∃ i : Instr, i.wellFormed = true ∧ i.cmdByte = s.cmd ∧ 2 ≤ i.rowNumber ∧
      consumerStep s = exec i s)

/-- The scanner finds every marker that is wholly present (R130): with a byte behind the marker and no earlier run of
four bytes equal to it, the bytes before it are discarded one step each and the next step matches it. -/
def Obligations.ScannerReachesTheFirstMarker : Prop :=
  ∀ (s : State) (noise rest : List Byte) (c : Byte), Invariants s → s.pw = .active → s.ps = .idle → s.env.sched = [] →
    queue s = noise ++ 0xDE :: 0xAD :: 0xBE :: 0xAF :: c :: rest →
    (∀ k < noise.length, ((queue s).drop k).take 4 ≠ [0xDE, 0xAD, 0xBE, 0xAF]) →
    steps (noise.length + 1) s =
      .next { s with r := s.r + BitVec.ofNat 8 (noise.length + 4), ps := .markerFound }

/-! ### The commands -/

/-- No transition of the parser exists but the table's (R120): a step that changes `PS`, RESET apart, is the Consumer's,
awake, and it is a match, a command fetch, or the end of a command. -/
def Obligations.ParserChangesStateOnlyByTheTable : Prop :=
  ∀ s t : State, Invariants s → step s = .next t → nextTurn s ≠ .reset → t.ps ≠ s.ps →
    s.pw = .active ∧ (nextTurn s = .consumer ∨ nextTurn s = .run) ∧
    ((s.ps = .idle ∧ 4 < occupiedLength s ∧ (queue s).take 4 = [0xDE, 0xAD, 0xBE, 0xAF] ∧ t.ps = .markerFound ∧
        t.r = s.r + 4) ∨
     (s.ps = .markerFound ∧ t.ps = .dispatching ∧ (queue s).head? = some t.cmd ∧ t.r = s.r + 1) ∨
     (s.ps = .dispatching ∧ t.ps = .idle ∧ t.pw = .asleep ∧
       ((s.cmd = 0x01 ∧ s.txi = 3 ∧ t.env.tx = s.env.tx ++ [s.sv.b3] ∧ t.r = s.r) ∨
        (s.cmd = 0x02 ∧ 4 ≤ occupiedLength s ∧ [t.sv.b0, t.sv.b1, t.sv.b2, t.sv.b3] = (queue s).take 4 ∧
          t.r = s.r + 4) ∨
        (s.cmd ≠ 0x01 ∧ s.cmd ≠ 0x02 ∧ t.r = s.r))))

/-- READ completes one byte of its reply whenever it is dispatched, awake, and the channel is ready: `SV[TXI]` is
transmitted; before the fourth byte `TXI` advances; with the fourth `TXI` is 0, the parser Idle and the block asleep. Nothing else
changes (R140, R141; `TXI` by the spec's decision D4). -/
def Obligations.ReadTransmitsTheNextByte : Prop :=
  ∀ s : State, s.ps = .dispatching → s.cmd = 0x01 → s.pw = .active → s.env.txReady = true →
    (s.txi = 0 → exec .read s = .next { s with txi := 1, env := { s.env with tx := s.env.tx ++ [s.sv.b0] } }) ∧
    (s.txi = 1 → exec .read s = .next { s with txi := 2, env := { s.env with tx := s.env.tx ++ [s.sv.b1] } }) ∧
    (s.txi = 2 → exec .read s = .next { s with txi := 3, env := { s.env with tx := s.env.tx ++ [s.sv.b2] } }) ∧
    (s.txi = 3 → exec .read s =
      .next { s with txi := 0, ps := .idle, pw := .asleep, env := { s.env with tx := s.env.tx ++ [s.sv.b3] } })

/-- While the channel is not ready a READ waits and changes nothing, with no timeout (R140 (a), R141, R222). -/
def Obligations.ReadWaitsForTheChannel : Prop :=
  ∀ s : State, s.ps = .dispatching → s.cmd = 0x01 → s.pw = .active → s.env.txReady = false →
    exec .read s = .next s ∧ consumerStep s = .next s

/-- R140: with the channel ready throughout, the whole READ transmits the four stored bytes in order, leaves the stored
value unchanged, and ends Idle and asleep. Four steps of the Consumer. -/
def Obligations.ReadReplyIsTheStoredValue : Prop :=
  ∀ s : State, s.ps = .dispatching → s.cmd = 0x01 → s.pw = .active → s.txi = 0 → s.env.txReady = true →
    s.env.sched = [] →
    steps 4 s = .next
      { s with ps := .idle, pw := .asleep, env := { s.env with tx := s.env.tx ++ [s.sv.b0, s.sv.b1, s.sv.b2, s.sv.b3] } }

/-- A reply in progress survives interference (R141 (b)): whatever turn comes but RESET, bytes received, pin events and
changes of `tx_ready` among them, either the READ goes on with the first `TXI` bytes sent so far, or it has ended with all
four sent. -/
def Obligations.ReplyKeepsItsOrderUnderInterference : Prop :=
  ∀ (s t : State) (before : List Byte), s.ps = .dispatching → s.cmd = 0x01 → s.pw = .active →
    s.env.tx = before ++ [s.sv.b0, s.sv.b1, s.sv.b2, s.sv.b3].take s.txi.val →
    nextTurn s ≠ .reset → step s = .next t →
    t.sv = s.sv ∧
    ((t.ps = .dispatching ∧ t.cmd = 0x01 ∧ t.pw = .active ∧
        t.env.tx = before ++ [s.sv.b0, s.sv.b1, s.sv.b2, s.sv.b3].take t.txi.val) ∨
     (t.ps = .idle ∧ t.pw = .asleep ∧ t.txi = 0 ∧ t.env.tx = before ++ [s.sv.b0, s.sv.b1, s.sv.b2, s.sv.b3]))

/-- WRITE completes whenever it is dispatched, awake, and four bytes are occupied: the payload becomes the stored value,
first byte in `SV[0]`, four bytes are consumed, the parser is Idle and the block asleep; nothing else changes (R142). -/
def Obligations.WriteReplacesTheStoredValue : Prop :=
  ∀ (s : State) (p0 p1 p2 p3 : Byte), s.ps = .dispatching → s.cmd = 0x02 → s.pw = .active → 4 ≤ occupiedLength s →
    exec (.write p0 p1 p2 p3) s =
      .next { s with sv := ⟨p0, p1, p2, p3⟩, r := s.r + 4, ps := .idle, pw := .asleep }

/-- R142 at the Consumer's step: with four bytes occupied the four oldest, as they are at the time of the capture, become
the stored value in order and are consumed, the parser is Idle and the block asleep; nothing else changes, and nothing is
transmitted. With fewer the Consumer holds. -/
def Obligations.WriteCapturesTheFourOldestBytes : Prop :=
  ∀ s : State, s.ps = .dispatching → s.cmd = 0x02 → s.pw = .active →
    (∀ p0 p1 p2 p3, 4 ≤ occupiedLength s →
      memRead s s.r = some p0 → memRead s (s.r + 1) = some p1 → memRead s (s.r + 2) = some p2 →
      memRead s (s.r + 3) = some p3 →
      consumerStep s = .next { s with sv := ⟨p0, p1, p2, p3⟩, r := s.r + 4, ps := .idle, pw := .asleep }) ∧
    (occupiedLength s < 4 → consumerStep s = .next s)

/-- With fewer than four bytes occupied a WRITE answers a state in which nothing has changed, awake in Dispatching (R143). -/
def Obligations.WriteWaitsForItsPayload : Prop :=
  ∀ (s : State) (p0 p1 p2 p3 : Byte), s.ps = .dispatching → s.cmd = 0x02 → s.pw = .active → occupiedLength s < 4 →
    consumerStep s = .next s ∧ exec (.write p0 p1 p2 p3) s = .next s

/-- R143, R221: a stalled WRITE is ended by nothing but received bytes and RESET: any other turn leaves the block as it is,
up to the Environment's own side, still stalled; a received byte, whatever it is, is accepted as the youngest of the bytes
that complete it, and changes none of the Consumer's state. -/
def Obligations.OnlyBytesOrResetEndAStalledWrite : Prop :=
  ∀ (s t : State), s.ps = .dispatching → s.cmd = 0x02 → s.pw = .active → occupiedLength s < 4 → step s = .next t →
    nextTurn s ≠ .reset →
    (t.ps = .dispatching ∧ t.cmd = 0x02 ∧ t.pw = .active ∧ t.sv = s.sv ∧ t.r = s.r ∧ t.txi = s.txi ∧
      t.env.tx = s.env.tx) ∧
    ((∀ b, nextTurn s ≠ .rx b) → t = { s with env := t.env } ∧ occupiedLength t < 4) ∧
    (∀ b, nextTurn s = .rx b → occupiedLength t = occupiedLength s + 1 ∧ memRead t s.w = some b)

/-- Every UNDEF row completes whenever it is dispatched and awake: the parser is Idle, the block asleep, and nothing else
changes: no reply, no error, no byte consumed (R144, the spec's decision D10). The eight rows are named. -/
def Obligations.UndefRowsGoToSleepAndDoNothingElse : Prop :=
  ∀ s : State, s.ps = .dispatching → s.pw = .active →
    (s.cmd = 0x00 → exec .undef00 s = .next { s with ps := .idle, pw := .asleep }) ∧
    (s.cmd = 0x03 → exec .undef03 s = .next { s with ps := .idle, pw := .asleep }) ∧
    (0x04 ≤ s.cmd → s.cmd ≤ 0x07 → exec (.undef04to07 s.cmd) s = .next { s with ps := .idle, pw := .asleep }) ∧
    (0x08 ≤ s.cmd → s.cmd ≤ 0x0F → exec (.undef08to0F s.cmd) s = .next { s with ps := .idle, pw := .asleep }) ∧
    (0x10 ≤ s.cmd → s.cmd ≤ 0x1F → exec (.undef10to1F s.cmd) s = .next { s with ps := .idle, pw := .asleep }) ∧
    (0x20 ≤ s.cmd → s.cmd ≤ 0x3F → exec (.undef20to3F s.cmd) s = .next { s with ps := .idle, pw := .asleep }) ∧
    (0x40 ≤ s.cmd → s.cmd ≤ 0x7F → exec (.undef40to7F s.cmd) s = .next { s with ps := .idle, pw := .asleep }) ∧
    (0x80 ≤ s.cmd → s.cmd ≤ 0xFF → exec (.undef80toFF s.cmd) s = .next { s with ps := .idle, pw := .asleep })

/-- The frame of READ: whenever it answers, no slot, counter, stored byte or command byte has changed, nor the
Environment's turns and level; the transmit stream has gained nothing or the one byte `SV[TXI]`; `TXI`, `PS` and `PW` change
only with that byte, and `PS` and `PW` only with the fourth. -/
def Obligations.ReadFrame : Prop :=
  ∀ s t : State, exec .read s = .next t →
    (∀ slot, t.buf.read slot = s.buf.read slot) ∧ t.w = s.w ∧ t.r = s.r ∧ t.sv = s.sv ∧ t.cmd = s.cmd ∧
    t.env.sched = s.env.sched ∧ t.env.txReady = s.env.txReady ∧
    ((t.env.tx = s.env.tx ∧ t.txi = s.txi ∧ t.ps = s.ps ∧ t.pw = s.pw) ∨
      t.env.tx = s.env.tx ++ [s.sv.byte s.txi]) ∧
    (s.txi ≠ 3 → t.ps = s.ps ∧ t.pw = s.pw)

/-- The frame of WRITE: whenever it answers, no slot, nor `W`, `CMD`, `TXI` or the Environment's side has changed, and `R`,
`SV`, `PS` and `PW` change only together, in the capture. -/
def Obligations.WriteFrame : Prop :=
  ∀ (s t : State) (p0 p1 p2 p3 : Byte), exec (.write p0 p1 p2 p3) s = .next t →
    (∀ slot, t.buf.read slot = s.buf.read slot) ∧ t.w = s.w ∧ t.cmd = s.cmd ∧ t.txi = s.txi ∧ t.env = s.env ∧
    (t = s ∨ (t.sv = ⟨p0, p1, p2, p3⟩ ∧ t.r = s.r + 4 ∧ t.ps = .idle ∧ t.pw = .asleep))

/-- The frame of the eight UNDEF rows: whenever one answers, no slot, counter, stored byte, command byte or reply index
has changed, nor the Environment's side; `PS` and `PW` may. -/
def Obligations.UndefFrame : Prop :=
  ∀ (i : Instr) (s t : State), 2 ≤ i.rowNumber → exec i s = .next t →
    (∀ slot, t.buf.read slot = s.buf.read slot) ∧ t.w = s.w ∧ t.r = s.r ∧ t.sv = s.sv ∧ t.cmd = s.cmd ∧
    t.txi = s.txi ∧ t.env = s.env

/-- The model's choice of log 8, from U12 and R196: a command that the parser is not dispatching has no meaning. One that it
dispatches while the block is asleep, which no run reaches (R39 I4), changes nothing (R162). -/
def Obligations.CommandsNotDispatchedAreRefused : Prop :=
  ∀ (i : Instr) (s : State),
    (s.ps ≠ .dispatching ∨ s.cmd ≠ i.cmdByte → exec i s = .refused .notDispatched) ∧
    (i.wellFormed = true → s.ps = .dispatching → s.cmd = i.cmdByte → s.pw = .asleep → exec i s = .next s)

/-! ### Steps -/

/-- A step whose turn is the Consumer's, awake in Dispatching, with operand bytes that decode to an instruction, is that
instruction's execution on the state with the turn taken off (R127, log 12). -/
def Obligations.StepExecutesTheDispatchedInstruction : Prop :=
  ∀ (s : State) (bytes rest : List Byte) (i : Instr), nextTurn s = .consumer → s.pw = .active → s.ps = .dispatching →
    operandBytes s = .next bytes → decodeCommand s.cmd bytes = .ok (i, rest) → step s = exec i (afterTurn s)

/-- A frame at the head of the window is fetched and run: when the queue begins with the frame of a well-formed
instruction, three Consumer steps match its marker, fetch its command byte, and execute that instruction (R121, R124, R126,
R127). -/
def Obligations.FrameAtTheHeadIsFetchedAndExecuted : Prop :=
  ∀ (s : State) (i : Instr) (rest : List Byte), Invariants s → s.pw = .active → s.ps = .idle → s.env.sched = [] →
    i.wellFormed = true → queue s = encode i ++ rest →
    steps 2 s = .next { s with r := s.r + 5, cmd := i.cmdByte, ps := .dispatching } ∧
    steps 3 s = exec i { s with r := s.r + 5, cmd := i.cmdByte, ps := .dispatching }

/-- The model's choice of log 10: with a well-formed instruction's table word placed in any state, the next step executes
that instruction, awake in Dispatching with its command byte fetched and nine bytes placed from the old `R` on: the frame,
in its slots, so that a WRITE has its whole payload, which is the four oldest bytes, and zeros. The seven other slots keep
their bytes, and what the placing does not need stays. -/
def Obligations.PlacedTableWordIsExecutedNext : Prop :=
  ∀ (i : Instr) (s : State), i.wellFormed = true → s.buf.wf = true →
    ∃ t : State,
      t = { s with buf := t.buf, w := s.r + 9, r := s.r + 5, ps := .dispatching, cmd := i.cmdByte, txi := 0, pw := .active } ∧
      (∀ k b, k < 9 → (encode i ++ [0, 0, 0, 0])[k]? = some b → t.buf.read ((s.r.toNat + k) % 16) = some b) ∧
      (∀ k, 9 ≤ k → k < 16 → t.buf.read ((s.r.toNat + k) % 16) = s.buf.read ((s.r.toNat + k) % 16)) ∧
      occupiedLength t = 4 ∧
      step (s.withFetchWord (8 * (encode i).length) (frameNumber (encode i))) = exec i t

/-! ### Power and events -/

/-- A received byte, as one whole step: pushed or dropped, and the block awake, the waking byte kept (R164, the spec's
decision D5). Only `BUF`, `W` and `PW` change, and every slot but the one written keeps its byte, so the Consumer finds all
of its own state untouched (R189). -/
def Obligations.ReceivedByteIsPushedAndWakes : Prop :=
  ∀ (s : State) (b : Byte) (rest : List Turn), s.env.sched = .rx b :: rest →
    ∃ t, step s = .next t ∧
      t = { s with buf := t.buf, w := t.w, pw := .active, env := { s.env with sched := rest } } ∧
      (occupiedLength s < 15 → t.w = s.w + 1 ∧ t.buf.read (s.w.toNat % 16) = some b ∧
        ∀ slot, slot ≠ s.w.toNat % 16 → t.buf.read slot = s.buf.read slot) ∧
      (¬ occupiedLength s < 15 → t.w = s.w ∧ t.buf = s.buf)

/-- R165: a pin event sets `PW` to Active, and nothing else changes. -/
def Obligations.PinEventOnlyWakes : Prop :=
  ∀ (s : State) (rest : List Turn), s.env.sched = .wakePin :: rest →
    step s = .next { s with pw := .active, env := { s.env with sched := rest } }

/-- R162: while the block is asleep the Consumer has no step: nothing is scanned, executed or transmitted, whatever
`tx_ready` is. The two handlers are not halted, and each ends the sleep. -/
def Obligations.SleepingConsumerTakesNoStep : Prop :=
  ∀ s : State, s.pw = .asleep → consumerStep s = .next s ∧ consumerEnabled s = false ∧
    (∀ b, (onRx b s).pw = .active) ∧ (onWakePin s).pw = .active

/-- The two handler steps commute (R188). -/
def Obligations.HandlersCommute : Prop :=
  ∀ (b : Byte) (s : State), onWakePin (onRx b s) = onRx b (onWakePin s)

/-- The block goes to sleep only as the last action of a command (R161, R169): a step that puts an awake block to sleep is
the Consumer's, in Dispatching, it goes to Idle, and it is the fourth byte of a READ, the capture of a WRITE, or an UNDEF. -/
def Obligations.SleepOnlyAtTheEndOfACommand : Prop :=
  ∀ s t : State, Invariants s → step s = .next t → s.pw = .active → t.pw = .asleep →
    s.ps = .dispatching ∧ t.ps = .idle ∧ (nextTurn s = .consumer ∨ nextTurn s = .run) ∧
    ((s.cmd = 0x01 ∧ s.txi = 3 ∧ s.env.txReady = true) ∨ (s.cmd = 0x02 ∧ 4 ≤ occupiedLength s) ∨
      (s.cmd ≠ 0x01 ∧ s.cmd ≠ 0x02))

/-- R163: there are exactly two wake sources: a sleeping block is woken by a received byte, by a pin event, or restarted
by RESET, and by each of them. -/
def Obligations.OnlyWakeEventsEndSleep : Prop :=
  ∀ s : State, s.pw = .asleep → ∃ t, step s = .next t ∧
    (t.pw = .active ↔ (∃ b, nextTurn s = .rx b) ∨ nextTurn s = .wakePin ∨ nextTurn s = .reset)

/-- Sleep keeps all state (R168, the spec's decision D6): a step of a sleeping block, RESET apart, changes no piece of
the Consumer's state, and without a received byte none of the buffer's. -/
def Obligations.SleepKeepsTheState : Prop :=
  ∀ s t : State, s.pw = .asleep → step s = .next t → nextTurn s ≠ .reset →
    t.r = s.r ∧ t.sv = s.sv ∧ t.ps = s.ps ∧ t.cmd = s.cmd ∧ t.txi = s.txi ∧ t.env.tx = s.env.tx ∧
    ((∀ b, nextTurn s ≠ .rx b) → t.buf = s.buf ∧ t.w = s.w)

/-! ### The whole machine -/

/-- `SV` is mutated only by a completed WRITE (R26, R39 I6, R145): a step that changes it, RESET apart, is the capture,
and the new value is the four oldest bytes. -/
def Obligations.StoredValueChangesOnlyInACapture : Prop :=
  ∀ s t : State, Invariants s → step s = .next t → nextTurn s ≠ .reset → t.sv ≠ s.sv →
    s.pw = .active ∧ s.ps = .dispatching ∧ s.cmd = 0x02 ∧ 4 ≤ occupiedLength s ∧
    [t.sv.b0, t.sv.b1, t.sv.b2, t.sv.b3] = (queue s).take 4 ∧ t.ps = .idle ∧ t.pw = .asleep

/-- The counters are changed by no step but these (R22, R23, R39 I7), RESET apart: `W` by one in a push that stores, `R`
by one or by four in a step of the Consumer, awake, never beyond the occupied bytes. -/
def Obligations.CountersMoveOnlyByTheirOperations : Prop :=
  ∀ s t : State, Invariants s → step s = .next t → nextTurn s ≠ .reset →
    (t.w = s.w ∨ (t.w = s.w + 1 ∧ occupiedLength s < 15 ∧ ∃ b, nextTurn s = .rx b)) ∧
    (t.r = s.r ∨ ((nextTurn s = .consumer ∨ nextTurn s = .run) ∧ s.pw = .active ∧
      ((t.r = s.r + 1 ∧ 1 ≤ occupiedLength s) ∨ (t.r = s.r + 4 ∧ 4 ≤ occupiedLength s))))

/-- The invariants of R39 are kept by every step of every agent. -/
def Obligations.EveryStepKeepsTheInvariants : Prop :=
  ∀ s t : State, Invariants s → step s = .next t → Invariants t

/-- R180: every step of every agent is total on every state that satisfies the invariants: it answers a next state, never
a fault and never a refusal. -/
def Obligations.NoStepFaultsOrIsRefused : Prop :=
  ∀ s : State, Invariants s → ∃ t, step s = .next t

/-- The block refines a bounded queue with no slots, no counters and no wraps (R52, R68): on every state that satisfies
the invariants a step answers a next state whose abstract view is the abstract block's step. It covers every turn: a received
byte by D5, UNDEF by D10, and `RESET` by D16, D2 and D4, where the abstract block too has `CMD` 0x00, the model's choice
(log 6), and keeps the Environment's turns and level of `tx_ready` (log 4, log 16). -/
def Obligations.BlockRefinesABoundedQueue : Prop :=
  ∀ s : State, Invariants s → ∃ t, step s = .next t ∧ abstractView t = Abs.step (abstractView s)

/-- The transmit stream is a record the block never reads (R37): replacing it before a step replaces only it after, and
the same bytes are added to it. -/
def Obligations.TransmitStreamIsNeverReadBack : Prop :=
  ∀ (s t : State) (other : List Byte), step s = .next t → nextTurn s ≠ .reset →
    ∃ sent : List Byte, sent.length ≤ 1 ∧ t.env.tx = s.env.tx ++ sent ∧
      step { s with env := { s.env with tx := other } } = .next { t with env := { t.env with tx := other ++ sent } }

/-- `CMD` is read only in Dispatching (R28, U5): elsewhere another value in it makes no difference to a step but that it may
still be there after, and not after a command fetch, which overwrites it. So the block's behaviour does not depend on the
value it holds after reset (log 6). -/
def Obligations.CommandByteIsReadOnlyInDispatching : Prop :=
  ∀ (s t : State) (other : Byte), s.ps ≠ .dispatching → step s = .next t →
    ∃ c, step { s with cmd := other } = .next { t with cmd := c } ∧
      (t.ps = .dispatching → c = t.cmd) ∧ (t.ps ≠ .dispatching → c = t.cmd ∨ c = other)

/-- `tx_ready` is sampled only by a READ in its reply (R141, R162): elsewhere its level makes no difference to the
Consumer's step, nor to a step of any turn but one that sets it: a `RUN` looks at it nowhere else either. So the block's
behaviour before a reply does not depend on its level after reset (log 4). -/
def Obligations.TxReadyIsSampledOnlyInAReply : Prop :=
  ∀ (s : State) (level : Bool), Invariants s → ¬ (s.pw = .active ∧ s.ps = .dispatching ∧ s.cmd = 0x01) →
    (∃ t, consumerStep s = .next t ∧
      consumerStep { s with env := { s.env with txReady := level } } =
        .next { t with env := { t.env with txReady := level } }) ∧
    ((∀ l, nextTurn s ≠ .txReady l) → ∃ t, step s = .next t ∧
      step { s with env := { s.env with txReady := level } } = .next { t with env := { t.env with txReady := level } })

/-- A Consumer step that changes nothing is a hold, and a hold is a Consumer step that changes nothing (R16, D8). -/
def Obligations.ConsumerChangesNothingExactlyWhenItHolds : Prop :=
  ∀ s : State, Invariants s → (consumerStep s = .next s ↔ consumerEnabled s = false)

/-- A `RUN` comes to its end (D22): after at most 22 steps the turn is over and the Consumer has no enabled step. -/
def Obligations.RunEndsWithinTwentyTwoSteps : Prop :=
  ∀ (s : State) (rest : List Turn), Invariants s → s.env.sched = .run :: rest →
    ∃ k t, k ≤ 22 ∧ steps k s = .next t ∧ t.env.sched = rest ∧ consumerEnabled t = false ∧ Invariants t

/-- R142's property: from an empty buffer in Idle, awake or asleep, after the bytes of a WRITE of `V` and a run the stored
value is `V`, and after the bytes of a READ and a run `V` has been transmitted, in order, and the block sleeps. -/
def Obligations.WrittenValueIsReadBack : Prop :=
  ∀ (s : State) (v0 v1 v2 v3 : Byte), Invariants s → s.ps = .idle → queue s = [] → s.env.txReady = true →
    s.env.sched = (Stimulus.write v0 v1 v2 v3).turns ++ [.run] ++ Stimulus.read.turns ++ [.run] →
    (∃ m, steps 13 s = .next m ∧ m.sv = ⟨v0, v1, v2, v3⟩ ∧ m.env.tx = s.env.tx ∧ m.pw = .asleep) ∧
    (∃ t, steps 25 s = .next t ∧ t.sv = ⟨v0, v1, v2, v3⟩ ∧ t.env.tx = s.env.tx ++ [v0, v1, v2, v3] ∧
      t.pw = .asleep ∧ t.ps = .idle ∧ queue t = [] ∧ t.env.sched = [])
end

