-- ==== Sys2Proof/Laws/Memory.lean ====
section
/-! SUPPORT. The laws of the ring buffer's storage: reading after writing, and the canonical form. -/

namespace Sys2Proof.Machine

@[simp] theorem read_nil (a : Nat) : Memory.read [] a = none := rfl

/-- A slot reads as the byte last written to it. -/
@[simp] theorem read_write_same (m : Memory) (a : Nat) (v : Byte) : Memory.read (Memory.write m a v) a = some v := by
  induction m with
  | nil => simp [Memory.write, Memory.read]
  | cons c rest ih =>
    obtain ⟨a', b⟩ := c
    simp only [Memory.write]
    split
    · simp [Memory.read]
    · split
      · simp [Memory.read]
      · have : a' ≠ a := fun h => ‹¬ a = a'› h.symm
        simp [Memory.read, this, ih]

/-- A write leaves every other slot alone. -/
theorem read_write_other (m : Memory) {a a' : Nat} (v : Byte) (h : a' ≠ a) :
    Memory.read (Memory.write m a v) a' = Memory.read m a' := by
  induction m with
  | nil => simp [Memory.write, Memory.read, Ne.symm h]
  | cons c rest ih =>
    obtain ⟨b, w⟩ := c
    simp only [Memory.write]
    split
    · simp [Memory.read, Ne.symm h]
    · split
      · subst_vars; simp [Memory.read, Ne.symm h]
      · simp only [Memory.read, ih]

/-- A write at or above the bound keeps the canonical form above that bound. -/
theorem wfFrom_write {m : Memory} {low a : Nat} (v : Byte) (hm : Memory.wfFrom low m = true) (hl : low ≤ a)
    (ha : a < 16) : Memory.wfFrom low (Memory.write m a v) = true := by
  induction m generalizing low with
  | nil => simp [Memory.write, Memory.wfFrom, Config.capacity, hl, ha]
  | cons c rest ih =>
    obtain ⟨b, w⟩ := c
    simp only [Memory.wfFrom, Config.capacity, Bool.and_eq_true, decide_eq_true_eq] at hm
    simp only [Memory.write]
    split
    · simp [Memory.wfFrom, Config.capacity, hm, hl, ha]; omega
    · split
      · subst_vars; simp [Memory.wfFrom, Config.capacity, hm]
      · simp [Memory.wfFrom, Config.capacity, hm]
        exact ih hm.2 (by omega)

/-- Every memory operation keeps the canonical form: the one that changes memory is a write to one of the 16 slots. -/
theorem wf_write {m : Memory} {a : Nat} (v : Byte) (hm : m.wf = true) (ha : a < 16) : (m.write a v).wf = true :=
  wfFrom_write v hm (Nat.zero_le a) ha

theorem wf_nil : Memory.wf [] = true := rfl

/-- The masked counter as a number (R51). -/
theorem slotOf_eq_mod (c : Byte) : slotOf c = c.toNat % 16 := by
  have h : ∀ c : Byte, (c &&& Config.indexMask).toNat = c.toNat % 16 := by decide
  exact h c

theorem slotOf_lt (c : Byte) : slotOf c < 16 := by
  rw [slotOf_eq_mod]; exact Nat.mod_lt _ (by decide)

end Sys2Proof.Machine
end

