-- ==== Sys2Proof/Laws/State.lean ====
section
/-! SUPPORT. One lemma per field per update of State, true by rfl, so that no proof unfolds a record update. -/

namespace Sys2Proof.Machine

@[simp] theorem setBuf_buf (m : Memory) (s : State) : (s.setBuf m).buf = m := rfl
@[simp] theorem setBuf_w (m : Memory) (s : State) : (s.setBuf m).w = s.w := rfl
@[simp] theorem setBuf_r (m : Memory) (s : State) : (s.setBuf m).r = s.r := rfl
@[simp] theorem setBuf_sv (m : Memory) (s : State) : (s.setBuf m).sv = s.sv := rfl
@[simp] theorem setBuf_ps (m : Memory) (s : State) : (s.setBuf m).ps = s.ps := rfl
@[simp] theorem setBuf_cmd (m : Memory) (s : State) : (s.setBuf m).cmd = s.cmd := rfl
@[simp] theorem setBuf_txi (m : Memory) (s : State) : (s.setBuf m).txi = s.txi := rfl
@[simp] theorem setBuf_pw (m : Memory) (s : State) : (s.setBuf m).pw = s.pw := rfl
@[simp] theorem setBuf_env (m : Memory) (s : State) : (s.setBuf m).env = s.env := rfl

@[simp] theorem setW_buf (v : Byte) (s : State) : (s.setW v).buf = s.buf := rfl
@[simp] theorem setW_w (v : Byte) (s : State) : (s.setW v).w = v := rfl
@[simp] theorem setW_r (v : Byte) (s : State) : (s.setW v).r = s.r := rfl
@[simp] theorem setW_sv (v : Byte) (s : State) : (s.setW v).sv = s.sv := rfl
@[simp] theorem setW_ps (v : Byte) (s : State) : (s.setW v).ps = s.ps := rfl
@[simp] theorem setW_cmd (v : Byte) (s : State) : (s.setW v).cmd = s.cmd := rfl
@[simp] theorem setW_txi (v : Byte) (s : State) : (s.setW v).txi = s.txi := rfl
@[simp] theorem setW_pw (v : Byte) (s : State) : (s.setW v).pw = s.pw := rfl
@[simp] theorem setW_env (v : Byte) (s : State) : (s.setW v).env = s.env := rfl

@[simp] theorem setR_buf (v : Byte) (s : State) : (s.setR v).buf = s.buf := rfl
@[simp] theorem setR_w (v : Byte) (s : State) : (s.setR v).w = s.w := rfl
@[simp] theorem setR_r (v : Byte) (s : State) : (s.setR v).r = v := rfl
@[simp] theorem setR_sv (v : Byte) (s : State) : (s.setR v).sv = s.sv := rfl
@[simp] theorem setR_ps (v : Byte) (s : State) : (s.setR v).ps = s.ps := rfl
@[simp] theorem setR_cmd (v : Byte) (s : State) : (s.setR v).cmd = s.cmd := rfl
@[simp] theorem setR_txi (v : Byte) (s : State) : (s.setR v).txi = s.txi := rfl
@[simp] theorem setR_pw (v : Byte) (s : State) : (s.setR v).pw = s.pw := rfl
@[simp] theorem setR_env (v : Byte) (s : State) : (s.setR v).env = s.env := rfl

@[simp] theorem setSv_buf (v : StoredValue) (s : State) : (s.setSv v).buf = s.buf := rfl
@[simp] theorem setSv_w (v : StoredValue) (s : State) : (s.setSv v).w = s.w := rfl
@[simp] theorem setSv_r (v : StoredValue) (s : State) : (s.setSv v).r = s.r := rfl
@[simp] theorem setSv_sv (v : StoredValue) (s : State) : (s.setSv v).sv = v := rfl
@[simp] theorem setSv_ps (v : StoredValue) (s : State) : (s.setSv v).ps = s.ps := rfl
@[simp] theorem setSv_cmd (v : StoredValue) (s : State) : (s.setSv v).cmd = s.cmd := rfl
@[simp] theorem setSv_txi (v : StoredValue) (s : State) : (s.setSv v).txi = s.txi := rfl
@[simp] theorem setSv_pw (v : StoredValue) (s : State) : (s.setSv v).pw = s.pw := rfl
@[simp] theorem setSv_env (v : StoredValue) (s : State) : (s.setSv v).env = s.env := rfl

@[simp] theorem setPs_buf (v : ParserState) (s : State) : (s.setPs v).buf = s.buf := rfl
@[simp] theorem setPs_w (v : ParserState) (s : State) : (s.setPs v).w = s.w := rfl
@[simp] theorem setPs_r (v : ParserState) (s : State) : (s.setPs v).r = s.r := rfl
@[simp] theorem setPs_sv (v : ParserState) (s : State) : (s.setPs v).sv = s.sv := rfl
@[simp] theorem setPs_ps (v : ParserState) (s : State) : (s.setPs v).ps = v := rfl
@[simp] theorem setPs_cmd (v : ParserState) (s : State) : (s.setPs v).cmd = s.cmd := rfl
@[simp] theorem setPs_txi (v : ParserState) (s : State) : (s.setPs v).txi = s.txi := rfl
@[simp] theorem setPs_pw (v : ParserState) (s : State) : (s.setPs v).pw = s.pw := rfl
@[simp] theorem setPs_env (v : ParserState) (s : State) : (s.setPs v).env = s.env := rfl

@[simp] theorem setCmd_buf (v : Byte) (s : State) : (s.setCmd v).buf = s.buf := rfl
@[simp] theorem setCmd_w (v : Byte) (s : State) : (s.setCmd v).w = s.w := rfl
@[simp] theorem setCmd_r (v : Byte) (s : State) : (s.setCmd v).r = s.r := rfl
@[simp] theorem setCmd_sv (v : Byte) (s : State) : (s.setCmd v).sv = s.sv := rfl
@[simp] theorem setCmd_ps (v : Byte) (s : State) : (s.setCmd v).ps = s.ps := rfl
@[simp] theorem setCmd_cmd (v : Byte) (s : State) : (s.setCmd v).cmd = v := rfl
@[simp] theorem setCmd_txi (v : Byte) (s : State) : (s.setCmd v).txi = s.txi := rfl
@[simp] theorem setCmd_pw (v : Byte) (s : State) : (s.setCmd v).pw = s.pw := rfl
@[simp] theorem setCmd_env (v : Byte) (s : State) : (s.setCmd v).env = s.env := rfl

@[simp] theorem setTxi_buf (v : Fin 4) (s : State) : (s.setTxi v).buf = s.buf := rfl
@[simp] theorem setTxi_w (v : Fin 4) (s : State) : (s.setTxi v).w = s.w := rfl
@[simp] theorem setTxi_r (v : Fin 4) (s : State) : (s.setTxi v).r = s.r := rfl
@[simp] theorem setTxi_sv (v : Fin 4) (s : State) : (s.setTxi v).sv = s.sv := rfl
@[simp] theorem setTxi_ps (v : Fin 4) (s : State) : (s.setTxi v).ps = s.ps := rfl
@[simp] theorem setTxi_cmd (v : Fin 4) (s : State) : (s.setTxi v).cmd = s.cmd := rfl
@[simp] theorem setTxi_txi (v : Fin 4) (s : State) : (s.setTxi v).txi = v := rfl
@[simp] theorem setTxi_pw (v : Fin 4) (s : State) : (s.setTxi v).pw = s.pw := rfl
@[simp] theorem setTxi_env (v : Fin 4) (s : State) : (s.setTxi v).env = s.env := rfl

@[simp] theorem setPw_buf (v : PowerState) (s : State) : (s.setPw v).buf = s.buf := rfl
@[simp] theorem setPw_w (v : PowerState) (s : State) : (s.setPw v).w = s.w := rfl
@[simp] theorem setPw_r (v : PowerState) (s : State) : (s.setPw v).r = s.r := rfl
@[simp] theorem setPw_sv (v : PowerState) (s : State) : (s.setPw v).sv = s.sv := rfl
@[simp] theorem setPw_ps (v : PowerState) (s : State) : (s.setPw v).ps = s.ps := rfl
@[simp] theorem setPw_cmd (v : PowerState) (s : State) : (s.setPw v).cmd = s.cmd := rfl
@[simp] theorem setPw_txi (v : PowerState) (s : State) : (s.setPw v).txi = s.txi := rfl
@[simp] theorem setPw_pw (v : PowerState) (s : State) : (s.setPw v).pw = v := rfl
@[simp] theorem setPw_env (v : PowerState) (s : State) : (s.setPw v).env = s.env := rfl

@[simp] theorem setSched_buf (l : List Turn) (s : State) : (s.setSched l).buf = s.buf := rfl
@[simp] theorem setSched_w (l : List Turn) (s : State) : (s.setSched l).w = s.w := rfl
@[simp] theorem setSched_r (l : List Turn) (s : State) : (s.setSched l).r = s.r := rfl
@[simp] theorem setSched_sv (l : List Turn) (s : State) : (s.setSched l).sv = s.sv := rfl
@[simp] theorem setSched_ps (l : List Turn) (s : State) : (s.setSched l).ps = s.ps := rfl
@[simp] theorem setSched_cmd (l : List Turn) (s : State) : (s.setSched l).cmd = s.cmd := rfl
@[simp] theorem setSched_txi (l : List Turn) (s : State) : (s.setSched l).txi = s.txi := rfl
@[simp] theorem setSched_pw (l : List Turn) (s : State) : (s.setSched l).pw = s.pw := rfl
@[simp] theorem setSched_sched (l : List Turn) (s : State) : (s.setSched l).env.sched = l := rfl
@[simp] theorem setSched_txReady (l : List Turn) (s : State) : (s.setSched l).env.txReady = s.env.txReady := rfl
@[simp] theorem setSched_tx (l : List Turn) (s : State) : (s.setSched l).env.tx = s.env.tx := rfl

@[simp] theorem setTxReady_buf (v : Bool) (s : State) : (s.setTxReady v).buf = s.buf := rfl
@[simp] theorem setTxReady_w (v : Bool) (s : State) : (s.setTxReady v).w = s.w := rfl
@[simp] theorem setTxReady_r (v : Bool) (s : State) : (s.setTxReady v).r = s.r := rfl
@[simp] theorem setTxReady_sv (v : Bool) (s : State) : (s.setTxReady v).sv = s.sv := rfl
@[simp] theorem setTxReady_ps (v : Bool) (s : State) : (s.setTxReady v).ps = s.ps := rfl
@[simp] theorem setTxReady_cmd (v : Bool) (s : State) : (s.setTxReady v).cmd = s.cmd := rfl
@[simp] theorem setTxReady_txi (v : Bool) (s : State) : (s.setTxReady v).txi = s.txi := rfl
@[simp] theorem setTxReady_pw (v : Bool) (s : State) : (s.setTxReady v).pw = s.pw := rfl
@[simp] theorem setTxReady_sched (v : Bool) (s : State) : (s.setTxReady v).env.sched = s.env.sched := rfl
@[simp] theorem setTxReady_txReady (v : Bool) (s : State) : (s.setTxReady v).env.txReady = v := rfl
@[simp] theorem setTxReady_tx (v : Bool) (s : State) : (s.setTxReady v).env.tx = s.env.tx := rfl

@[simp] theorem setTx_buf (l : List Byte) (s : State) : (s.setTx l).buf = s.buf := rfl
@[simp] theorem setTx_w (l : List Byte) (s : State) : (s.setTx l).w = s.w := rfl
@[simp] theorem setTx_r (l : List Byte) (s : State) : (s.setTx l).r = s.r := rfl
@[simp] theorem setTx_sv (l : List Byte) (s : State) : (s.setTx l).sv = s.sv := rfl
@[simp] theorem setTx_ps (l : List Byte) (s : State) : (s.setTx l).ps = s.ps := rfl
@[simp] theorem setTx_cmd (l : List Byte) (s : State) : (s.setTx l).cmd = s.cmd := rfl
@[simp] theorem setTx_txi (l : List Byte) (s : State) : (s.setTx l).txi = s.txi := rfl
@[simp] theorem setTx_pw (l : List Byte) (s : State) : (s.setTx l).pw = s.pw := rfl
@[simp] theorem setTx_sched (l : List Byte) (s : State) : (s.setTx l).env.sched = s.env.sched := rfl
@[simp] theorem setTx_txReady (l : List Byte) (s : State) : (s.setTx l).env.txReady = s.env.txReady := rfl
@[simp] theorem setTx_tx (l : List Byte) (s : State) : (s.setTx l).env.tx = l := rfl

@[simp] theorem emit_buf (b : Byte) (s : State) : (emit b s).buf = s.buf := rfl
@[simp] theorem emit_w (b : Byte) (s : State) : (emit b s).w = s.w := rfl
@[simp] theorem emit_r (b : Byte) (s : State) : (emit b s).r = s.r := rfl
@[simp] theorem emit_sv (b : Byte) (s : State) : (emit b s).sv = s.sv := rfl
@[simp] theorem emit_ps (b : Byte) (s : State) : (emit b s).ps = s.ps := rfl
@[simp] theorem emit_cmd (b : Byte) (s : State) : (emit b s).cmd = s.cmd := rfl
@[simp] theorem emit_txi (b : Byte) (s : State) : (emit b s).txi = s.txi := rfl
@[simp] theorem emit_pw (b : Byte) (s : State) : (emit b s).pw = s.pw := rfl
@[simp] theorem emit_sched (b : Byte) (s : State) : (emit b s).env.sched = s.env.sched := rfl
@[simp] theorem emit_txReady (b : Byte) (s : State) : (emit b s).env.txReady = s.env.txReady := rfl
@[simp] theorem emit_tx (b : Byte) (s : State) : (emit b s).env.tx = s.env.tx ++ [b] := rfl

@[simp] theorem wake_buf (s : State) : (wake s).buf = s.buf := rfl
@[simp] theorem wake_w (s : State) : (wake s).w = s.w := rfl
@[simp] theorem wake_r (s : State) : (wake s).r = s.r := rfl
@[simp] theorem wake_sv (s : State) : (wake s).sv = s.sv := rfl
@[simp] theorem wake_ps (s : State) : (wake s).ps = s.ps := rfl
@[simp] theorem wake_cmd (s : State) : (wake s).cmd = s.cmd := rfl
@[simp] theorem wake_txi (s : State) : (wake s).txi = s.txi := rfl
@[simp] theorem wake_pw (s : State) : (wake s).pw = .active := rfl
@[simp] theorem wake_env (s : State) : (wake s).env = s.env := rfl

@[simp] theorem enterLowPower_buf (s : State) : (enterLowPower s).buf = s.buf := rfl
@[simp] theorem enterLowPower_w (s : State) : (enterLowPower s).w = s.w := rfl
@[simp] theorem enterLowPower_r (s : State) : (enterLowPower s).r = s.r := rfl
@[simp] theorem enterLowPower_sv (s : State) : (enterLowPower s).sv = s.sv := rfl
@[simp] theorem enterLowPower_ps (s : State) : (enterLowPower s).ps = s.ps := rfl
@[simp] theorem enterLowPower_cmd (s : State) : (enterLowPower s).cmd = s.cmd := rfl
@[simp] theorem enterLowPower_txi (s : State) : (enterLowPower s).txi = s.txi := rfl
@[simp] theorem enterLowPower_pw (s : State) : (enterLowPower s).pw = .asleep := rfl
@[simp] theorem enterLowPower_env (s : State) : (enterLowPower s).env = s.env := rfl

@[simp] theorem finishCommand_buf (s : State) : (finishCommand s).buf = s.buf := rfl
@[simp] theorem finishCommand_w (s : State) : (finishCommand s).w = s.w := rfl
@[simp] theorem finishCommand_r (s : State) : (finishCommand s).r = s.r := rfl
@[simp] theorem finishCommand_sv (s : State) : (finishCommand s).sv = s.sv := rfl
@[simp] theorem finishCommand_ps (s : State) : (finishCommand s).ps = .idle := rfl
@[simp] theorem finishCommand_cmd (s : State) : (finishCommand s).cmd = s.cmd := rfl
@[simp] theorem finishCommand_txi (s : State) : (finishCommand s).txi = s.txi := rfl
@[simp] theorem finishCommand_pw (s : State) : (finishCommand s).pw = .asleep := rfl
@[simp] theorem finishCommand_env (s : State) : (finishCommand s).env = s.env := rfl

@[simp] theorem memWrite_buf (a v : Byte) (s : State) : (memWrite a v s).buf = s.buf.write (slotOf a) v := rfl
@[simp] theorem memWrite_w (a v : Byte) (s : State) : (memWrite a v s).w = s.w := rfl
@[simp] theorem memWrite_r (a v : Byte) (s : State) : (memWrite a v s).r = s.r := rfl
@[simp] theorem memWrite_sv (a v : Byte) (s : State) : (memWrite a v s).sv = s.sv := rfl
@[simp] theorem memWrite_ps (a v : Byte) (s : State) : (memWrite a v s).ps = s.ps := rfl
@[simp] theorem memWrite_cmd (a v : Byte) (s : State) : (memWrite a v s).cmd = s.cmd := rfl
@[simp] theorem memWrite_txi (a v : Byte) (s : State) : (memWrite a v s).txi = s.txi := rfl
@[simp] theorem memWrite_pw (a v : Byte) (s : State) : (memWrite a v s).pw = s.pw := rfl
@[simp] theorem memWrite_env (a v : Byte) (s : State) : (memWrite a v s).env = s.env := rfl

end Sys2Proof.Machine
end

