-- ==== Sys2Proof/Laws/Ring.lean ====
section
/-! SUPPORT. What the ring buffer's operations can do, said once each, and how they act on the occupied window. -/

namespace Sys2Proof.Machine

/-! ### Outcomes -/

@[simp] theorem andThen_next {α β : Type} (a : α) (f : α → Host.Outcome β Fault Refusal) :
    andThen (.next a) f = f a := rfl

/-- `andThen` answers a next value only through its first part's. -/
theorem andThen_eq_next {α β : Type} {o : Host.Outcome α Fault Refusal} {f : α → Host.Outcome β Fault Refusal}
    {b : β} (h : andThen o f = .next b) : ∃ a, o = .next a ∧ f a = .next b := by
  cases o with
  | next a => exact ⟨a, rfl, h⟩
  | fault e => cases h
  | refused e => cases h

/-! ### The predicates of R35 as statements -/

@[simp] theorem pushAdmitted_iff (s : State) : pushAdmitted s = true ↔ occupiedLength s < 15 := by
  simp only [pushAdmitted, decide_eq_true_eq]; rfl

@[simp] theorem scanPossible_iff (s : State) : scanPossible s = true ↔ 4 < occupiedLength s := by
  simp only [scanPossible, decide_eq_true_eq]; rfl

@[simp] theorem payloadPresent_iff (s : State) : payloadPresent s = true ↔ 4 ≤ occupiedLength s := by
  simp only [payloadPresent, decide_eq_true_eq]; rfl

/-! ### Counters -/

theorem occupiedLength_congr {s t : State} (hw : t.w = s.w) (hr : t.r = s.r) : occupiedLength t = occupiedLength s := by
  simp [occupiedLength, hw, hr]

/-- One byte more in the write counter raises the occupied length by one, below 255. -/
theorem occupied_succ {s : State} (h : occupiedLength s < 255) : (s.w + 1 - s.r).toNat = occupiedLength s + 1 := by
  simp only [occupiedLength] at *
  bv_omega

/-- Consuming `n` occupied bytes lowers the occupied length by `n`. -/
theorem occupied_consume {s : State} {n : Nat} (h : n ≤ occupiedLength s) :
    (s.w - (s.r + BitVec.ofNat 8 n)).toNat = occupiedLength s - n := by
  have hlt : occupiedLength s < 256 := (s.w - s.r).isLt
  have hn : n < 256 := by omega
  have hk : (BitVec.ofNat 8 n).toNat = n := by rw [BitVec.toNat_ofNat]; exact Nat.mod_eq_of_lt hn
  simp only [occupiedLength] at *
  bv_omega

/-- Two places of a window of at most 16 bytes lie in different slots (R52, R69). -/
theorem slotOf_ne {r : Byte} {j k : Nat} (hj : j < 16) (hk : k < 16) (h : j ≠ k) :
    slotOf (r + BitVec.ofNat 8 j) ≠ slotOf (r + BitVec.ofNat 8 k) := by
  simp only [slotOf_eq_mod, BitVec.toNat_add, BitVec.toNat_ofNat]
  omega

/-- The write counter stands at the end of the occupied window (R69). -/
theorem w_eq_end (s : State) : s.w = s.r + BitVec.ofNat 8 (occupiedLength s) := by
  simp only [occupiedLength, BitVec.ofNat_toNat, BitVec.setWidth_eq]
  bv_omega

/-- A push writes no slot of the occupied window (R69). -/
theorem slotOf_w_ne {s : State} {k : Nat} (hk : k < occupiedLength s) (h : occupiedLength s < 16) :
    slotOf (s.r + BitVec.ofNat 8 k) ≠ slotOf s.w := by
  rw [w_eq_end s]
  exact slotOf_ne (by omega) h (by omega)

/-! ### Operations -/

theorem push_admitted (b : Byte) {s : State} (h : occupiedLength s < 15) :
    push b s = (memWrite s.w b s).setW (s.w + 1) := by
  simp [push, h]

theorem push_dropped (b : Byte) {s : State} (h : ¬ occupiedLength s < 15) : push b s = s := by
  simp [push, h]

/-- Everything a push can do. -/
theorem push_cases (b : Byte) (s : State) :
    (occupiedLength s < 15 ∧ push b s = (memWrite s.w b s).setW (s.w + 1)) ∨
    (¬ occupiedLength s < 15 ∧ push b s = s) := by
  by_cases h : occupiedLength s < 15
  · exact .inl ⟨h, push_admitted b h⟩
  · exact .inr ⟨h, push_dropped b h⟩

/-- What a push leaves alone, whether it stores or drops. -/
@[simp] theorem push_r (b : Byte) (s : State) : (push b s).r = s.r := by
  rcases push_cases b s with ⟨_, h⟩ | ⟨_, h⟩ <;> simp [h]
@[simp] theorem push_sv (b : Byte) (s : State) : (push b s).sv = s.sv := by
  rcases push_cases b s with ⟨_, h⟩ | ⟨_, h⟩ <;> simp [h]
@[simp] theorem push_ps (b : Byte) (s : State) : (push b s).ps = s.ps := by
  rcases push_cases b s with ⟨_, h⟩ | ⟨_, h⟩ <;> simp [h]
@[simp] theorem push_cmd (b : Byte) (s : State) : (push b s).cmd = s.cmd := by
  rcases push_cases b s with ⟨_, h⟩ | ⟨_, h⟩ <;> simp [h]
@[simp] theorem push_txi (b : Byte) (s : State) : (push b s).txi = s.txi := by
  rcases push_cases b s with ⟨_, h⟩ | ⟨_, h⟩ <;> simp [h]
@[simp] theorem push_pw (b : Byte) (s : State) : (push b s).pw = s.pw := by
  rcases push_cases b s with ⟨_, h⟩ | ⟨_, h⟩ <;> simp [h]
@[simp] theorem push_env (b : Byte) (s : State) : (push b s).env = s.env := by
  rcases push_cases b s with ⟨_, h⟩ | ⟨_, h⟩ <;> simp [h, State.setW, memWrite, State.setBuf]

theorem consume_of_le {n : Nat} {s : State} (h : n ≤ occupiedLength s) :
    consume n s = .next (s.setR (s.r + BitVec.ofNat 8 n)) := by
  simp [consume, h]

/-- Everything a consume that answers can do. -/
theorem consume_eq_next {n : Nat} {s t : State} (h : consume n s = .next t) :
    n ≤ occupiedLength s ∧ t = s.setR (s.r + BitVec.ofNat 8 n) := by
  unfold consume at h
  split at h
  · exact ⟨‹_›, by cases h; rfl⟩
  · cases h

theorem await_of_le {n : Nat} {s : State} (go : State → Result) (h : n ≤ occupiedLength s) : await n s go = go s := by
  simp [await, h]

theorem await_of_lt {n : Nat} {s : State} (go : State → Result) (h : occupiedLength s < n) : await n s go = .next s := by
  simp [await, hold]; omega

theorem peek_of_read {k : Nat} {s : State} {b : Byte} (hk : k < occupiedLength s)
    (h : memRead s (s.r + BitVec.ofNat 8 k) = some b) : peek k s = .next b := by
  simp [peek, hk, h]

/-- Everything a peek that answers says. -/
theorem peek_eq_next {k : Nat} {s : State} {b : Byte} (h : peek k s = .next b) :
    k < occupiedLength s ∧ memRead s (s.r + BitVec.ofNat 8 k) = some b := by
  unfold peek at h
  split at h
  · refine ⟨‹_›, ?_⟩
    split at h
    · cases h; assumption
    · cases h
  · cases h

/-! ### The window and the queue -/

@[simp] theorem window_length (s : State) : (window s).length = occupiedLength s := by
  simp [window]

theorem window_get {s : State} {k : Nat} (h : k < occupiedLength s) :
    (window s)[k]? = some (memRead s (s.r + BitVec.ofNat 8 k)) := by
  simp [window, h]

/-- Only `BUF`, `W` and `R` decide the window. -/
theorem window_congr {s t : State} (hb : t.buf = s.buf) (hw : t.w = s.w) (hr : t.r = s.r) : window t = window s := by
  simp [window, occupiedLength, memRead, hb, hw, hr]

theorem queue_congr {s t : State} (hb : t.buf = s.buf) (hw : t.w = s.w) (hr : t.r = s.r) : queue t = queue s := by
  simp [queue, window_congr hb hw hr]

/-- An accepted byte goes to the end of the window. -/
theorem window_push (b : Byte) {s : State} (h : occupiedLength s < 15) : window (push b s) = window s ++ [some b] := by
  rw [push_admitted b h]
  have hocc : occupiedLength ((memWrite s.w b s).setW (s.w + 1)) = occupiedLength s + 1 := by
    simpa [occupiedLength] using occupied_succ (s := s) (by omega)
  simp only [window, hocc, List.range_succ, List.map_append, List.map_cons, List.map_nil]
  congr 1
  · refine List.map_congr_left fun k hk => ?_
    have hk' : k < occupiedLength s := by simpa using hk
    simp only [memRead, setW_buf, setW_r, memWrite_buf, memWrite_r]
    exact read_write_other _ _ (slotOf_w_ne hk' (by omega))
  · simp only [memRead, setW_buf, setW_r, memWrite_buf, memWrite_r, ← w_eq_end s, read_write_same]

/-- Consuming takes bytes off the front of the window. -/
theorem window_consume {n : Nat} {s : State} (h : n ≤ occupiedLength s) :
    window (s.setR (s.r + BitVec.ofNat 8 n)) = (window s).drop n := by
  have hocc : occupiedLength (s.setR (s.r + BitVec.ofNat 8 n)) = occupiedLength s - n := by
    simpa [occupiedLength] using occupied_consume (s := s) h
  apply List.ext_getElem?
  intro k
  rw [List.getElem?_drop]
  by_cases hk : k < occupiedLength s - n
  · rw [window_get (by omega), window_get (by omega)]
    simp only [memRead, setR_buf, setR_r]
    congr 3
    rw [BitVec.add_assoc]
    congr 1
    apply BitVec.eq_of_toNat_eq
    simp
  · rw [List.getElem?_eq_none (by rw [window_length]; omega), List.getElem?_eq_none (by rw [window_length]; omega)]

end Sys2Proof.Machine
end

