-- ==== Sys2Proof/Laws/Consumer.lean ====
section
/-! SUPPORT. What the Consumer's steps do on a state that satisfies the invariants, said once for each step in terms of
the queue of accepted bytes. -/

namespace Sys2Proof.Machine

/-! ### The queue under the invariants -/

theorem map_some_filterMap_id {l : List (Option Byte)} (h : ∀ x ∈ l, x.isSome) :
    (l.filterMap id).map some = l := by
  induction l with
  | nil => rfl
  | cons x xs ih =>
    obtain ⟨y, rfl⟩ := Option.isSome_iff_exists.mp (h x (by simp))
    simpa using ih fun z hz => h z (by simp [hz])

theorem window_isSome {s : State} (h : ∀ k < occupiedLength s, (memRead s (s.r + BitVec.ofNat 8 k)).isSome) :
    ∀ x ∈ window s, x.isSome := by
  intro x hx
  simp only [window, List.mem_map, List.mem_range] at hx
  obtain ⟨k, hk, rfl⟩ := hx
  exact h k hk

theorem Invariants.window_eq {s : State} (hi : Invariants s) : window s = (queue s).map some :=
  (map_some_filterMap_id (window_isSome hi.written)).symm

theorem Invariants.queue_length {s : State} (hi : Invariants s) : (queue s).length = occupiedLength s := by
  have h := congrArg List.length hi.window_eq
  simpa using h.symm

theorem Invariants.memRead_eq {s : State} (hi : Invariants s) {k : Nat} (hk : k < occupiedLength s) :
    memRead s (s.r + BitVec.ofNat 8 k) = (queue s)[k]? := by
  have h := congrArg (·[k]?) hi.window_eq
  simp only [window_get hk, List.getElem?_map] at h
  rw [← hi.queue_length] at hk
  rw [List.getElem?_eq_getElem hk] at h ⊢
  exact Option.some.inj h

/-- The written window as a statement about lists. -/
theorem written_iff {s : State} :
    (∀ k < occupiedLength s, (memRead s (s.r + BitVec.ofNat 8 k)).isSome) ↔ ∀ x ∈ window s, x.isSome := by
  refine ⟨window_isSome, fun h k hk => h _ ?_⟩
  simp only [window, List.mem_map, List.mem_range]
  exact ⟨k, hk, rfl⟩

theorem queue_push (b : Byte) (s : State) :
    queue (push b s) = if occupiedLength s < 15 then queue s ++ [b] else queue s := by
  split
  · simp [queue, window_push b ‹_›]
  · rw [push_dropped b ‹_›]

theorem Invariants.queue_consume {s : State} (hi : Invariants s) {n : Nat} (h : n ≤ occupiedLength s) :
    queue (s.setR (s.r + BitVec.ofNat 8 n)) = (queue s).drop n := by
  rw [queue, window_consume h, hi.window_eq, ← List.map_drop]
  simp [List.filterMap_map]

/-- The `n` bytes from place `off` on. -/
theorem Invariants.peekFrom_eq {s : State} (hi : Invariants s) {off n : Nat} (h : off + n ≤ occupiedLength s) :
    peekFrom s off n = .next (((queue s).drop off).take n) := by
  induction n generalizing off with
  | zero => simp [peekFrom]
  | succ n ih =>
    have hoff : off < (queue s).length := by rw [hi.queue_length]; omega
    have hread := hi.memRead_eq (k := off) (by omega)
    rw [List.getElem?_eq_getElem hoff] at hread
    simp only [peekFrom, peek_of_read (by omega) hread, andThen_next, ih (off := off + 1) (by omega)]
    rw [List.drop_eq_getElem_cons hoff, List.take_succ_cons]

theorem Invariants.oldest_eq {s : State} (hi : Invariants s) {n : Nat} (h : n ≤ occupiedLength s) :
    oldest n s = .next ((queue s).take n) := by
  simpa [oldest] using hi.peekFrom_eq (off := 0) (n := n) (by omega)

/-! ### Decoding a command -/

@[simp] theorem writeCmd_ne_readCmd : Config.writeCmd ≠ Config.readCmd := by decide

@[simp] theorem decodeCommand_read (bs : List Byte) : decodeCommand Config.readCmd bs = .ok (.read, bs) := by
  simp [decodeCommand]

@[simp] theorem decodeCommand_write (p0 p1 p2 p3 : Byte) (bs : List Byte) :
    decodeCommand Config.writeCmd (p0 :: p1 :: p2 :: p3 :: bs) = .ok (.write p0 p1 p2 p3, bs) := by
  simp [decodeCommand]

@[simp] theorem decodeCommand_write_nil : decodeCommand Config.writeCmd [] = .error .payloadIncomplete := by
  simp [decodeCommand]

theorem decodeCommand_undef {c : Byte} (bs : List Byte) (h1 : c ≠ Config.readCmd) (h2 : c ≠ Config.writeCmd) :
    decodeCommand c bs = .ok (undefInstr c, bs) := by
  simp [decodeCommand, h1, h2]

/-- Whatever UNDEF row a command byte selects, its meaning is the UNDEF step of that byte. -/
theorem exec_undefInstr (c : Byte) (s : State) : exec (undefInstr c) s = undefStep c s := by
  unfold undefInstr
  repeat' split
  all_goals subst_vars; rfl

/-- The row a command byte other than 1 and 2 selects fits it (R96). -/
theorem undefInstr_fits : ∀ c : Byte, c ≠ Config.readCmd → c ≠ Config.writeCmd →
    (undefInstr c).wellFormed = true ∧ (undefInstr c).cmdByte = c := by
  decide

/-! ### The Consumer's steps -/

theorem consumerStep_asleep {s : State} (h : s.pw = .asleep) : consumerStep s = .next s := by
  simp [consumerStep, h, hold]

theorem consumerStep_idle {s : State} (hp : s.pw = .active) (hs : s.ps = .idle) : consumerStep s = idleStep s := by
  simp [consumerStep, hp, hs]

theorem consumerStep_markerFound {s : State} (hp : s.pw = .active) (hs : s.ps = .markerFound) :
    consumerStep s = cmdFetch s := by
  simp [consumerStep, hp, hs]

theorem consumerStep_dispatching {s : State} (hp : s.pw = .active) (hs : s.ps = .dispatching) :
    consumerStep s = dispatchStep s := by
  simp [consumerStep, hp, hs]

theorem idleStep_hold {s : State} (h : occupiedLength s ≤ 4) : idleStep s = .next s := by
  simp [idleStep, hold, Nat.not_lt.mpr h]

theorem Invariants.idleStep_match {s : State} (hi : Invariants s) (h : 4 < occupiedLength s)
    (hm : (queue s).take 4 = Config.marker) :
    idleStep s = .next ((s.setR (s.r + 4)).setPs .markerFound) := by
  simp [idleStep, Config.markerLen, h, hi.oldest_eq (n := 4) (by omega), markerMatches, hm, matchStep,
    consume_of_le (n := 4) (s := s) (by omega)]

theorem Invariants.idleStep_resync {s : State} (hi : Invariants s) (h : 4 < occupiedLength s)
    (hm : (queue s).take 4 ≠ Config.marker) : idleStep s = .next (s.setR (s.r + 1)) := by
  simp [idleStep, Config.markerLen, h, hi.oldest_eq (n := 4) (by omega), markerMatches, hm, resyncStep,
    consume_of_le (n := 1) (s := s) (by omega)]

theorem cmdFetch_hold {s : State} (h : occupiedLength s = 0) : cmdFetch s = .next s := by
  simp [cmdFetch, pop, await_of_lt, h]

theorem Invariants.cmdFetch_eq {s : State} (hi : Invariants s) {c : Byte} {rest : List Byte} (hq : queue s = c :: rest) :
    cmdFetch s = .next (((s.setR (s.r + 1)).setCmd c).setPs .dispatching) := by
  have hocc : 1 ≤ occupiedLength s := by rw [← hi.queue_length, hq]; simp
  have hread := hi.memRead_eq (k := 0) hocc
  rw [hq] at hread
  simp [cmdFetch, pop, await_of_le _ hocc, peek_of_read hocc hread, consume_of_le hocc]

theorem whenDispatched_eq {k : Byte} {s : State} (body : State → Result) (hs : s.ps = .dispatching) (hc : s.cmd = k)
    (hp : s.pw = .active) : whenDispatched k s body = body s := by
  simp [whenDispatched, hs, hc, hp]

theorem dispatchStep_read {s : State} (hc : s.cmd = Config.readCmd) : dispatchStep s = execRead s := by
  simp [dispatchStep, operandBytes, hc, isWrite, writeCmd_ne_readCmd.symm, exec]

theorem dispatchStep_hold {s : State} (hc : s.cmd = Config.writeCmd) (h : occupiedLength s < 4) : dispatchStep s = .next s := by
  have hp : payloadPresent s = false := by simpa [← Bool.not_eq_true] using h
  simp [dispatchStep, operandBytes, hc, hp, hold]

theorem Invariants.dispatchStep_write {s : State} (hi : Invariants s) (hc : s.cmd = Config.writeCmd) {p0 p1 p2 p3 : Byte} {rest : List Byte}
    (hq : queue s = p0 :: p1 :: p2 :: p3 :: rest) : dispatchStep s = execWrite p0 p1 p2 p3 s := by
  have hocc : 4 ≤ occupiedLength s := by rw [← hi.queue_length, hq]; simp
  have hp : payloadPresent s = true := by simp [hocc]
  simp [dispatchStep, operandBytes, hc, hp, isWrite, Config.payloadSize, hi.oldest_eq hocc, hq, exec]

theorem dispatchStep_undef {s : State} (h1 : s.cmd ≠ Config.readCmd) (h2 : s.cmd ≠ Config.writeCmd) : dispatchStep s = undefStep s.cmd s := by
  simp [dispatchStep, operandBytes, isWrite, h2, decodeCommand_undef _ h1 h2, exec_undefInstr]

theorem execWrite_eq {s : State} (p0 p1 p2 p3 : Byte) (hs : s.ps = .dispatching) (hc : s.cmd = Config.writeCmd) (hp : s.pw = .active)
    (h : 4 ≤ occupiedLength s) :
    execWrite p0 p1 p2 p3 s = .next (finishCommand ((s.setSv ⟨p0, p1, p2, p3⟩).setR (s.r + 4))) := by
  have hocc : 4 ≤ occupiedLength (s.setSv ⟨p0, p1, p2, p3⟩) := h
  simp [execWrite, whenDispatched_eq _ hs hc hp, writeCapture, Config.payloadSize, await_of_le _ h,
    consume_of_le hocc]

theorem undefStep_eq {s : State} (hs : s.ps = .dispatching) (h1 : s.cmd ≠ Config.readCmd) (h2 : s.cmd ≠ Config.writeCmd) (hp : s.pw = .active) :
    undefStep s.cmd s = .next (finishCommand s) := by
  simp [undefStep, isRead, isWrite, h1, h2, whenDispatched_eq _ hs rfl hp]

theorem execRead_eq {s : State} (hs : s.ps = .dispatching) (hc : s.cmd = Config.readCmd) (hp : s.pw = .active) :
    execRead s = readTx s := whenDispatched_eq _ hs hc hp

end Sys2Proof.Machine
end

