-- ==== Sys2Proof/Laws/PerInstr.lean ====
section
/-! SUPPORT. The families of statements made per instruction, one lemma per constructor. -/

namespace Sys2Proof.Laws

/-- The length of a well-formed instruction's frame is decided by its command byte alone, 9 bytes for 2 and 5 for every
other (R86), the frame starts with the marker (R82), and the command byte follows it (R83). -/
def FrameShape.Statement (i : Instr) : Prop :=
  i.wellFormed = true →
    (encode i).length = (if i.cmdByte = 0x02 then 9 else 5) ∧
    (encode i).take 4 = [0xDE, 0xAD, 0xBE, 0xAF] ∧ (encode i)[4]? = some i.cmdByte

/-- A frame without payload has the shape, if its command byte is not that of a WRITE. -/
theorem frameShape_of_no_payload {i : Instr} (hp : i.payload = []) (hc : i.wellFormed = true → i.cmdByte ≠ 0x02) :
    FrameShape.Statement i := by
  intro hw
  simp [encode, hp, Config.marker]
  exact hc hw

theorem FrameShape.read : FrameShape.Statement .read :=
  frameShape_of_no_payload rfl fun _ => by decide

theorem FrameShape.write (p0 p1 p2 p3 : Byte) : FrameShape.Statement (.write p0 p1 p2 p3) :=
  fun _ => ⟨rfl, rfl, rfl⟩

theorem FrameShape.undef00 : FrameShape.Statement .undef00 :=
  frameShape_of_no_payload rfl fun _ => by decide

theorem FrameShape.undef03 : FrameShape.Statement .undef03 :=
  frameShape_of_no_payload rfl fun _ => by decide

theorem FrameShape.undef04to07 (c : Byte) : FrameShape.Statement (.undef04to07 c) :=
  frameShape_of_no_payload rfl (by rintro hw rfl; exact absurd hw (by decide))

theorem FrameShape.undef08to0F (c : Byte) : FrameShape.Statement (.undef08to0F c) :=
  frameShape_of_no_payload rfl (by rintro hw rfl; exact absurd hw (by decide))

theorem FrameShape.undef10to1F (c : Byte) : FrameShape.Statement (.undef10to1F c) :=
  frameShape_of_no_payload rfl (by rintro hw rfl; exact absurd hw (by decide))

theorem FrameShape.undef20to3F (c : Byte) : FrameShape.Statement (.undef20to3F c) :=
  frameShape_of_no_payload rfl (by rintro hw rfl; exact absurd hw (by decide))

theorem FrameShape.undef40to7F (c : Byte) : FrameShape.Statement (.undef40to7F c) :=
  frameShape_of_no_payload rfl (by rintro hw rfl; exact absurd hw (by decide))

theorem FrameShape.undef80toFF (c : Byte) : FrameShape.Statement (.undef80toFF c) :=
  frameShape_of_no_payload rfl (by rintro hw rfl; exact absurd hw (by decide))

end Sys2Proof.Laws
end

