-- ==== Sys2Proof/Laws/Step.lean ====
section
/-! SUPPORT. What a step can do, said once: the Consumer's step on a state that satisfies the invariants, and one turn
of any agent. Claims about steps are derived from these, not from the definitions. -/

namespace Sys2Proof.Machine

/-- A state's list of at least four bytes has a first four. -/
theorem exists_four {l : List Byte} (h : 4 ≤ l.length) : ∃ p0 p1 p2 p3 rest, l = p0 :: p1 :: p2 :: p3 :: rest := by
  match l, h with
  | p0 :: p1 :: p2 :: p3 :: rest, _ => exact ⟨p0, p1, p2, p3, rest, rfl⟩

/-- Everything the Consumer's step can do under the invariants: hold, MATCH, RESYNC, CMDFETCH, READ-TX before the last
byte, READ-TX of the last, WRITE-CAPTURE, UNDEF. The first case is the only one without an enabled step. -/
theorem Invariants.consumerStep_cases {s : State} (hi : Invariants s) :
    (consumerEnabled s = false ∧ consumerStep s = .next s) ∨
    (consumerEnabled s = true ∧ s.pw = .active ∧
      ((s.ps = .idle ∧ 4 < occupiedLength s ∧ (queue s).take 4 = Config.marker ∧
          consumerStep s = .next ((s.setR (s.r + 4)).setPs .markerFound)) ∨
       (s.ps = .idle ∧ 4 < occupiedLength s ∧ (queue s).take 4 ≠ Config.marker ∧
          consumerStep s = .next (s.setR (s.r + 1))) ∨
       (s.ps = .markerFound ∧ ∃ c rest, queue s = c :: rest ∧
          consumerStep s = .next (((s.setR (s.r + 1)).setCmd c).setPs .dispatching)) ∨
       (s.ps = .dispatching ∧ s.cmd = Config.readCmd ∧ s.env.txReady = true ∧ s.txi ≠ 3 ∧
          consumerStep s = .next ((emit (s.sv.byte s.txi) s).setTxi (s.txi + 1))) ∨
       (s.ps = .dispatching ∧ s.cmd = Config.readCmd ∧ s.env.txReady = true ∧ s.txi = 3 ∧
          consumerStep s = .next (finishCommand ((emit (s.sv.byte s.txi) s).setTxi 0))) ∨
       (s.ps = .dispatching ∧ s.cmd = Config.writeCmd ∧ ∃ p0 p1 p2 p3 rest, queue s = p0 :: p1 :: p2 :: p3 :: rest ∧
          consumerStep s = .next (finishCommand ((s.setSv ⟨p0, p1, p2, p3⟩).setR (s.r + 4)))) ∨
       (s.ps = .dispatching ∧ s.cmd ≠ Config.readCmd ∧ s.cmd ≠ Config.writeCmd ∧
          consumerStep s = .next (finishCommand s)))) := by
  cases hp : s.pw with
  | asleep => exact .inl ⟨by simp [consumerEnabled, hp], consumerStep_asleep hp⟩
  | active =>
    cases hs : s.ps with
    | idle =>
      have he : consumerEnabled s = true ↔ 4 < occupiedLength s := by
        simp [consumerEnabled, hp, hs]
      rw [consumerStep_idle hp hs]
      by_cases h : 4 < occupiedLength s
      · by_cases hm : (queue s).take 4 = Config.marker
        · exact .inr ⟨he.mpr h, rfl, .inl ⟨rfl, h, hm, hi.idleStep_match h hm⟩⟩
        · exact .inr ⟨he.mpr h, rfl, .inr (.inl ⟨rfl, h, hm, hi.idleStep_resync h hm⟩)⟩
      · exact .inl ⟨Bool.eq_false_iff.mpr (mt he.mp h), idleStep_hold (by omega)⟩
    | markerFound =>
      have hocc := hi.fetched hs
      rw [consumerStep_markerFound hp hs]
      match hq : queue s with
      | [] => have := hi.queue_length; simp [hq] at this; omega
      | c :: rest =>
        exact .inr ⟨by simpa [consumerEnabled, hp, hs] using hocc, rfl,
          .inr (.inr (.inl ⟨rfl, c, rest, rfl, hi.cmdFetch_eq hq⟩))⟩
    | dispatching =>
      rw [consumerStep_dispatching hp hs]
      by_cases h1 : s.cmd = Config.readCmd
      · have he : consumerEnabled s = s.env.txReady := by simp [consumerEnabled, hp, hs, isRead, h1, channelReady]
        rw [dispatchStep_read h1, execRead_eq hs h1 hp]
        by_cases ht : s.env.txReady = true
        · by_cases h3 : s.txi = 3
          · exact .inr ⟨by rw [he, ht], rfl, .inr (.inr (.inr (.inr (.inl ⟨rfl, h1, ht, h3,
              by simp [readTx, channelReady, ht, h3]⟩))))⟩
          · exact .inr ⟨by rw [he, ht], rfl, .inr (.inr (.inr (.inl ⟨rfl, h1, ht, h3,
              by simp [readTx, channelReady, ht, h3]⟩)))⟩
        · exact .inl ⟨by rw [he]; simpa using ht, by simp [readTx, channelReady, ht, hold]⟩
      · by_cases h2 : s.cmd = Config.writeCmd
        · have he : consumerEnabled s = true ↔ 4 ≤ occupiedLength s := by
            simp [consumerEnabled, hp, hs, isRead, isWrite, h2]
          by_cases h : 4 ≤ occupiedLength s
          · obtain ⟨p0, p1, p2, p3, rest, hq⟩ := exists_four (l := queue s) (by rw [hi.queue_length]; exact h)
            exact .inr ⟨he.mpr h, rfl, .inr (.inr (.inr (.inr (.inr (.inl ⟨rfl, h2, p0, p1, p2, p3, rest, hq,
              by rw [hi.dispatchStep_write h2 hq, execWrite_eq _ _ _ _ hs h2 hp h]⟩)))))⟩
          · exact .inl ⟨Bool.eq_false_iff.mpr (mt he.mp h), dispatchStep_hold h2 (by omega)⟩
        · exact .inr ⟨by simp [consumerEnabled, hp, hs, isRead, isWrite, h1, h2], rfl,
            .inr (.inr (.inr (.inr (.inr (.inr ⟨rfl, h1, h2,
              by rw [dispatchStep_undef h1 h2, undefStep_eq hs h1 h2 hp]⟩)))))⟩

/-! ### Turns -/

/-- A step is the turn at the head of the schedule, or the Consumer's. -/
theorem step_eq_takeTurn (s : State) : step s = takeTurn (nextTurn s) (afterTurn s) := by
  obtain ⟨buf, w, r, sv, ps, cmd, txi, pw, sched, txReady, tx⟩ := s
  cases sched <;> rfl

/-- A `RUN` turn is a step of the Consumer with the turn kept, or the end of the turn. -/
theorem runTurn_cases (s : State) :
    (consumerEnabled s = true ∧ runTurn s = consumerStep (s.setSched (.run :: s.env.sched))) ∨
    (consumerEnabled s = false ∧ runTurn s = .next s) := by
  cases h : consumerEnabled s <;> simp [runTurn, h]

@[simp] theorem consumerEnabled_setSched (l : List Turn) (s : State) :
    consumerEnabled (s.setSched l) = consumerEnabled s := rfl

@[simp] theorem occupiedLength_setSched (l : List Turn) (s : State) :
    occupiedLength (s.setSched l) = occupiedLength s := rfl

@[simp] theorem queue_setSched (l : List Turn) (s : State) : queue (s.setSched l) = queue s := rfl

/-! ### The invariants under updates -/

/-- The Environment's side plays no part in the invariants. -/
theorem Invariants.congr_env {s t : State} (hi : Invariants s) (h : t = { s with env := t.env }) : Invariants t := by
  rw [h]
  exact ⟨hi.bound, hi.written, hi.fetched, hi.asleepIdle, hi.txiZero, hi.bufWf⟩

theorem Invariants.setSched {s : State} (hi : Invariants s) (l : List Turn) : Invariants (s.setSched l) := hi.congr_env rfl

theorem Invariants.setTxReady {s : State} (hi : Invariants s) (v : Bool) : Invariants (s.setTxReady v) := hi.congr_env rfl

theorem Invariants.setTx {s : State} (hi : Invariants s) (l : List Byte) : Invariants (s.setTx l) := hi.congr_env rfl

/-- The window's part of the invariants, after bytes are consumed. -/
theorem Invariants.written_consume {s : State} (hi : Invariants s) {n : Nat} (h : n ≤ occupiedLength s) :
    ∀ x ∈ window (s.setR (s.r + BitVec.ofNat 8 n)), x.isSome := by
  intro x hx
  rw [window_consume h] at hx
  exact window_isSome hi.written x (List.mem_of_mem_drop hx)

theorem occupied_setR {s : State} {n : Nat} (h : n ≤ occupiedLength s) :
    occupiedLength (s.setR (s.r + BitVec.ofNat 8 n)) = occupiedLength s - n :=
  occupied_consume h

theorem Invariants.push {s : State} (hi : Invariants s) (b : Byte) : Invariants (push b s) := by
  by_cases h : occupiedLength s < 15
  · have hocc : occupiedLength (Sys2Proof.Machine.push b s) = occupiedLength s + 1 := by
      simpa using congrArg List.length (window_push b h)
    refine ⟨by omega, ?_, fun _ => by omega, ?_, ?_, ?_⟩
    · rw [written_iff, window_push b h]
      intro x hx
      rcases List.mem_append.mp hx with hx | hx
      · exact window_isSome hi.written x hx
      · simp at hx; simp [hx]
    · simpa using hi.asleepIdle
    · simpa using hi.txiZero
    · rw [push_admitted b h]; exact wf_write _ hi.bufWf (slotOf_lt _)
  · rwa [push_dropped b h]

theorem Invariants.wake {s : State} (hi : Invariants s) : Invariants (wake s) :=
  ⟨hi.bound, hi.written, hi.fetched, fun h => by simp at h, hi.txiZero, hi.bufWf⟩

end Sys2Proof.Machine
end

