-- ==== Sys2Proof/Tests/Slice0.lean ====
section
/-! SUPPORT. Small tests, their expected values taken from the spec's tables and vectors (each names its source), and for
every obligation that has hypotheses a concrete state that meets them. -/

namespace Sys2Proof.Tests

open Sys2Proof.Machine

/-- The state a step answers, if it answers one. -/
def nextOf (o : Result) : Option State :=
  match o with
  | .next t => some t
  | .fault _ => none
  | .refused _ => none

/-- The instruction a list of bytes decodes to, if any. -/
def decoded (bytes : List Byte) : Option (Instr × List Byte) :=
  match decode bytes with
  | .ok r => some r
  | .error _ => none

/-- The reason a list of bytes is rejected for, if it is. -/
def rejected (bytes : List Byte) : Option Reject :=
  match decode bytes with
  | .ok _ => none
  | .error e => some e

/-- The reset state but with both counters at `c`: a block that has received `c` bytes since reset. -/
def emptyAt (c : Byte) : State :=
  { State.reset with w := c, r := c }

/-- The bytes pushed into that state, with the Consumer not running. -/
def holding (c : Byte) (bytes : List Byte) : State :=
  bytes.foldl (fun t b => push b t) (emptyAt c)

/-- Awake in Dispatching with a command byte, the bytes behind it in slots 14, 15, 0, ..., and the stored value of V17. -/
def dispatching (cmd : Byte) (bytes : List Byte) : State :=
  { holding 0xFE bytes with ps := .dispatching, cmd := cmd, sv := ⟨0x11, 0x22, 0x33, 0x44⟩ }

/-- P3 after fourteen bytes, `R` = FA: 55 66 77 88 DE AD in slots 10 to 15 and BE AF 02 A1 B2 C3 D4 DE in slots 0 to 7. -/
def nearlyFull : State :=
  { emptyAt 0xFA with
    w := 0x08
    buf := [(0, 0xBE), (1, 0xAF), (2, 0x02), (3, 0xA1), (4, 0xB2), (5, 0xC3), (6, 0xD4), (7, 0xDE),
      (10, 0x55), (11, 0x66), (12, 0x77), (13, 0x88), (14, 0xDE), (15, 0xAD)] }

/-- P3 after fifteen bytes: AD in slot 8, and no room for another. -/
def full : State :=
  push 0xAD nearlyFull

/-- A state with the turns given still to come. -/
def withTurns (l : List Turn) (s : State) : State :=
  s.setSched l

/-! ### Well-formed instructions: one ill-formed term for each check (R96) -/

theorem test_wellFormed_refuses_undef04to07 : (Instr.undef04to07 0x08).wellFormed = false := by decide
theorem test_wellFormed_refuses_undef08to0F : (Instr.undef08to0F 0x10).wellFormed = false := by decide
theorem test_wellFormed_refuses_undef10to1F : (Instr.undef10to1F 0x0F).wellFormed = false := by decide
theorem test_wellFormed_refuses_undef20to3F : (Instr.undef20to3F 0x40).wellFormed = false := by decide
theorem test_wellFormed_refuses_undef40to7F : (Instr.undef40to7F 0x80).wellFormed = false := by decide
theorem test_wellFormed_refuses_undef80toFF : (Instr.undef80toFF 0x01).wellFormed = false := by decide

/-! ### Decoding: a frame of each row written out bit by bit from R82, R85 and R96 -/

theorem test_decode_read :
    decoded [0b11011110, 0b10101101, 0b10111110, 0b10101111, 0b00000001] = some (.read, []) := by decide
/-- P1 gives these bits. -/
theorem test_decode_write :
    decoded [0b11011110, 0b10101101, 0b10111110, 0b10101111, 0b00000010, 0b00010001, 0b00100010, 0b00110011, 0b01000100]
      = some (.write 0x11 0x22 0x33 0x44, []) := by decide
theorem test_decode_undef00 :
    decoded [0b11011110, 0b10101101, 0b10111110, 0b10101111, 0b00000000] = some (.undef00, []) := by decide
theorem test_decode_undef03 :
    decoded [0b11011110, 0b10101101, 0b10111110, 0b10101111, 0b00000011] = some (.undef03, []) := by decide
/-- P4 gives these bits. -/
theorem test_decode_undef04to07 :
    decoded [0b11011110, 0b10101101, 0b10111110, 0b10101111, 0b00000111] = some (.undef04to07 0x07, []) := by decide
theorem test_decode_undef08to0F :
    decoded [0b11011110, 0b10101101, 0b10111110, 0b10101111, 0b00001010] = some (.undef08to0F 0x0A, []) := by decide
theorem test_decode_undef10to1F :
    decoded [0b11011110, 0b10101101, 0b10111110, 0b10101111, 0b00010000] = some (.undef10to1F 0x10, []) := by decide
theorem test_decode_undef20to3F :
    decoded [0b11011110, 0b10101101, 0b10111110, 0b10101111, 0b00111111] = some (.undef20to3F 0x3F, []) := by decide
theorem test_decode_undef40to7F :
    decoded [0b11011110, 0b10101101, 0b10111110, 0b10101111, 0b01000010] = some (.undef40to7F 0x42, []) := by decide
/-- R83: 0x81 is not a Read. -/
theorem test_decode_undef80toFF :
    decoded [0b11011110, 0b10101101, 0b10111110, 0b10101111, 0b10000001] = some (.undef80toFF 0x81, []) := by decide

/-- N14, V11: DE AD BE EF is not the marker. -/
theorem test_decode_rejects_other_marker : rejected [0xDE, 0xAD, 0xBE, 0xEF, 0x01] = some .badMarker := by decide
theorem test_decode_rejects_short : rejected [0xDE, 0xAD, 0xBE, 0xAF] = some .tooShort := by decide
theorem test_decode_rejects_cut_payload :
    rejected [0xDE, 0xAD, 0xBE, 0xAF, 0x02, 0x11, 0x22, 0x33] = some .payloadIncomplete := by decide

/-- R96's numbers for READ and WRITE, and READ with its first byte lowest. -/
theorem test_table_words :
    decodeTableWord 40 0xDEADBEAF01 = some .read ∧ decodeTableWord 72 0xDEADBEAF0200000000 = some (.write 0 0 0 0) ∧
    decodeTableWord 40 0x01AFBEADDE = some .read ∧ decodeTableWord 40 0x02AFBEADDE = some (.write 0 0 0 0) := by decide

/-- The rows of R96 do not overlap, and each has the marker in its pattern. -/
theorem test_rows_do_not_overlap :
    tableRows.Pairwise fun p q =>
      let low := fun (row : Row) (x : Nat) => x >>> (8 * (row.lengthBytes - 5))
      low p p.pattern &&& (low p p.mask &&& low q q.mask) ≠ low q q.pattern &&& (low p p.mask &&& low q q.mask) := by
  decide

/-! ### The ring buffer -/

/-- V1, its second half: `W` = 08, `R` = FA; the fifteenth byte is stored, the sixteenth dropped. -/
theorem test_push_boundary :
    occupiedLength nearlyFull = 14 ∧ full.w = 0x09 ∧ full.buf.read 8 = some 0xAD ∧ occupiedLength full = 15 ∧
    push 0xBE full = full := by decide
/-- V2: `W` = FF, `R` = F8. -/
theorem test_push_counter_wrap :
    let s := push 0x5A { State.reset with w := 0xFF, r := 0xF8 }
    s.buf.read 15 = some 0x5A ∧ s.w = 0x00 ∧ occupiedLength s = 8 := by decide
/-- V3. -/
theorem test_occupiedLength :
    [(0x00, 0x00), (0x80, 0x80), (0x05, 0x00), (0x02, 0xFE), (0x09, 0xFA), (0x00, 0xFF), (0x0F, 0x00)].map
      (fun p => occupiedLength { State.reset with w := p.1, r := p.2 }) = [0, 0, 5, 4, 15, 1, 15] := by decide
/-- V4: peeks in slots 14, 15, 0, 1. -/
theorem test_peek_wraps :
    (holding 0xFE [0xDE, 0xAD, 0xBE, 0xAF]).buf.read 1 = some 0xAF ∧
    (List.range 4).map (fun k => match peek k (holding 0xFE [0xDE, 0xAD, 0xBE, 0xAF]) with
      | .next b => some b
      | .fault _ => none
      | .refused _ => none) = [some 0xDE, some 0xAD, some 0xBE, some 0xAF] := by decide
/-- V5. -/
theorem test_consume_wraps :
    (nextOf (consume 4 { State.reset with w := 0x05, r := 0xFE })).map State.r = some 0x02 ∧
    (nextOf (consume 4 { State.reset with w := 0x08, r := 0x03 })).map (fun t => (t.r, occupiedLength t))
      = some (0x07, 1) := by decide
/-- V7: `R` = 04, `BUF[4]` = 02. -/
theorem test_pop :
    (nextOf (pop (holding 0x04 [0x02]) fun v t => .next (t.setCmd v))).map (fun t => (t.cmd, t.r, occupiedLength t))
      = some (0x02, 0x05, 0) := by decide

/-! ### The parser -/

/-- V9: four bytes equal to the marker are not yet a match. -/
theorem test_idle_hold_marker :
    nextOf (step (holding 0x00 [0xDE, 0xAD, 0xBE, 0xAF])) = some (holding 0x00 [0xDE, 0xAD, 0xBE, 0xAF]) := by decide
/-- R124's example: `R` = 03, slots 3 to 7 = DE AD BE AF 01. -/
theorem test_match :
    (nextOf (step (holding 0x03 [0xDE, 0xAD, 0xBE, 0xAF, 0x01]))).map (fun t => (t.r, t.ps, occupiedLength t))
      = some (0x07, .markerFound, 1) := by decide
/-- V11: a mismatch at each of the four positions discards one byte. -/
theorem test_resync :
    ([[0x00, 0xAD, 0xBE, 0xAF, 0x01], [0xDE, 0x00, 0xBE, 0xAF, 0x01], [0xDE, 0xAD, 0x00, 0xAF, 0x01],
      [0xDE, 0xAD, 0xBE, 0xAE, 0x01], [0xDE, 0xAD, 0xBE, 0xEF, 0x01]] : List (List Byte)).map
        (fun bytes => (nextOf (step (holding 0x00 bytes))).map fun t => (t.r, t.ps, occupiedLength t))
      = List.replicate 5 (some (0x01, .idle, 4)) := by decide
/-- V14: every value of the command byte is fetched. -/
theorem test_command_fetch :
    ([0x01, 0x02, 0x00, 0xFF] : List Byte).map
        (fun c => (nextOf (step { holding 0x07 [c] with ps := .markerFound })).map
          fun t => (t.cmd, t.r, t.ps, occupiedLength t))
      = [some (0x01, 0x08, .dispatching, 0), some (0x02, 0x08, .dispatching, 0), some (0x00, 0x08, .dispatching, 0),
         some (0xFF, 0x08, .dispatching, 0)] := by decide

/-! ### The commands: one or two for each row -/

/-- R141's example: `TXI` = 2. -/
theorem test_read_third_byte :
    (nextOf (step { dispatching 0x01 [] with txi := 2 })).map (fun t => (t.env.tx, t.txi, t.ps, t.pw))
      = some ([0x33], 3, .dispatching, .active) := by decide
/-- V17: the fourth byte ends the reply. -/
theorem test_read_fourth_byte :
    (nextOf (step { dispatching 0x01 [0x99] with txi := 3 })).map
        (fun t => (t.env.tx, t.txi, t.ps, t.pw, occupiedLength t))
      = some ([0x44], 0, .idle, .asleep, 1) := by decide
/-- V18: a payload across the wraps, first byte in `SV[0]`; a fifth byte stays. -/
theorem test_write_capture :
    (nextOf (step (dispatching 0x02 [0x10, 0x20, 0x30, 0x40, 0x50]))).map
        (fun t => (t.sv.bytes, t.r, t.ps, t.pw, occupiedLength t))
      = some ([0x10, 0x20, 0x30, 0x40], 0x02, .idle, .asleep, 1) := by decide
/-- R143's example: two payload bytes. -/
theorem test_write_hold :
    nextOf (step (dispatching 0x02 [0x11, 0x22])) = some (dispatching 0x02 [0x11, 0x22]) := by decide
/-- R144, V21, P4: each row goes to Idle and asleep, the stored value, the bytes behind and the stream unchanged. -/
def undefEnd (cmd : Byte) : Option (ParserState × PowerState × List Byte × Byte × List Byte) :=
  (nextOf (step (dispatching cmd [0x77]))).map fun t => (t.ps, t.pw, t.sv.bytes, t.r, t.env.tx)

theorem test_undef00 : undefEnd 0x00 = some (.idle, .asleep, [0x11, 0x22, 0x33, 0x44], 0xFE, []) := by decide
theorem test_undef03 : undefEnd 0x03 = some (.idle, .asleep, [0x11, 0x22, 0x33, 0x44], 0xFE, []) := by decide
theorem test_undef04to07 : undefEnd 0x07 = some (.idle, .asleep, [0x11, 0x22, 0x33, 0x44], 0xFE, []) := by decide
theorem test_undef08to0F : undefEnd 0x08 = some (.idle, .asleep, [0x11, 0x22, 0x33, 0x44], 0xFE, []) := by decide
theorem test_undef10to1F : undefEnd 0x1F = some (.idle, .asleep, [0x11, 0x22, 0x33, 0x44], 0xFE, []) := by decide
theorem test_undef20to3F : undefEnd 0x20 = some (.idle, .asleep, [0x11, 0x22, 0x33, 0x44], 0xFE, []) := by decide
theorem test_undef40to7F : undefEnd 0x7F = some (.idle, .asleep, [0x11, 0x22, 0x33, 0x44], 0xFE, []) := by decide
theorem test_undef80toFF : undefEnd 0x81 = some (.idle, .asleep, [0x11, 0x22, 0x33, 0x44], 0xFE, []) := by decide

/-- A table word placed after reset is run by the very next step: READ sends the first zero byte (V16), WRITE stores its
payload of zeros and sleeps, UNDEF_80_FF sleeps. -/
theorem test_placed_words :
    (nextOf (step (State.reset.withFetchWord 40 0xDEADBEAF01))).map (fun t => (t.env.tx, t.txi)) = some ([0x00], 1) ∧
    (nextOf (step (State.reset.withFetchWord 40 0x02AFBEADDE))).map (fun t => (t.ps, t.pw, t.r))
      = some (.idle, .asleep, 0x09) ∧
    (nextOf (step (State.reset.withFetchWord 40 0xDEADBEAF80))).map (fun t => (t.ps, t.pw, t.cmd))
      = some (.idle, .asleep, 0x80) := by decide

/-! ### Events -/

/-- V24: a byte received while asleep is stored and wakes. -/
theorem test_rx_wakes :
    (nextOf (step (withTurns [.rx 0xDE] { emptyAt 0x09 with pw := .asleep }))).map
        (fun t => (t.buf.read 9, t.w, t.pw, occupiedLength t)) = some (some 0xDE, 0x0A, .active, 1) := by decide
/-- V25: with 15 bytes occupied it is dropped and wakes all the same. -/
theorem test_dropped_rx_wakes :
    (nextOf (step (withTurns [.rx 0x77] { State.reset with w := 0x14, r := 0x05, pw := .asleep }))).map
        (fun t => (t.w, t.r, t.pw)) = some (0x14, 0x05, .active) := by decide
/-- V26, V27: a pin event wakes a sleeping block and does nothing to an awake one. -/
theorem test_wakePin :
    nextOf (step (withTurns [.wakePin] { emptyAt 0x05 with pw := .asleep })) = some (emptyAt 0x05) ∧
    nextOf (step (withTurns [.wakePin] (dispatching 0x02 [0x11]))) = some (dispatching 0x02 [0x11]) := by decide
/-- V29: reset out of a stalled WRITE. -/
theorem test_reset :
    nextOf (step (withTurns [.reset] (dispatching 0x02 [0x11, 0x22]))) = some State.reset := by decide
/-- V15: the first byte of a marker directly after a marker is taken as a command byte. -/
theorem test_marker_after_marker :
    (nextOf (step { holding 0x04 [0xDE, 0xAD] with ps := .markerFound })).map (fun t => (t.cmd, t.ps))
      = some (0xDE, .dispatching) := by decide

/-! ### The silent conditions and the schedules -/

/-- R181, R188: each state has the one condition its row names: `occ` = 15 in a scan at a mismatch has two, in two different
steps (the next `RX` and the next scan). -/
theorem test_silent_conditions :
    let arising := fun s => [SilentCondition.overflow, .mismatch, .badCmd, .stalledWrite, .stalledRead].filter (·.arises s)
    arising State.reset = [] ∧ arising (holding 0x00 [0xDE, 0xAD, 0x00, 0xAF, 0x01]) = [.mismatch] ∧
    arising (holding 0x00 [0xDE, 0xAD, 0xBE, 0xAF, 0x01]) = [] ∧ arising full = [.overflow, .mismatch] ∧
    arising (dispatching 0x07 []) = [.badCmd] ∧ arising (dispatching 0x02 [0x11, 0x22]) = [.stalledWrite] ∧
    arising ((dispatching 0x01 []).setTxReady false) = [.stalledRead] := by decide

/-- R95: `MARK` is `RAW DE AD BE AF`; burst runs once at the end, eager after every byte as in S4's trace. -/
theorem test_schedules :
    burst [.mark, .cmd 0x07] = [.rx 0xDE, .rx 0xAD, .rx 0xBE, .rx 0xAF, .rx 0xDE, .rx 0xAD, .rx 0xBE, .rx 0xAF, .rx 0x07, .run] ∧
    eager [.raw [0xDE, 0xAD], .wake] = [.rx 0xDE, .run, .rx 0xAD, .run, .wakePin, .run] := by decide

/-! ### Witnesses: for every obligation with hypotheses, states and operands that meet all of them together

`witness_<Name>` is for `Obligations.<Name>`. A step or an operation that a hypothesis says answers a next state is shown
to answer one. -/

/-- A command byte of each of the three kinds. -/
theorem witness_CommandByteIsComparedWhole :
    decode [0xDE, 0xAD, 0xBE, 0xAF, 0x01, 0x05] = .ok (.read, [0x05]) ∧
    decode [0xDE, 0xAD, 0xBE, 0xAF, 0x02, 0x05, 0x06, 0x07, 0x08] = .ok (.write 0x05 0x06 0x07 0x08, []) ∧
    decode [0xDE, 0xAD, 0xBE, 0xAF, 0x81] = .ok (.undef80toFF 0x81, []) := ⟨rfl, rfl, rfl⟩

theorem witness_FormatsDecodeForEveryOperand :
    ((0x00 : Byte) ≠ 0x01 ∧ (0x00 : Byte) ≠ 0x02) ∧ ((0x03 : Byte) ≠ 0x01 ∧ (0x03 : Byte) ≠ 0x02) ∧
    ((0xFF : Byte) ≠ 0x01 ∧ (0xFF : Byte) ≠ 0x02) := by decide

/-- Well-formed instructions of every row, at both ends of each range. -/
theorem witness_DecodeOfEncodeIsTheInstruction :
    [Instr.read, .write 0xDE 0xAD 0xBE 0xAF, .undef00, .undef03, .undef04to07 0x04, .undef04to07 0x07, .undef08to0F 0x08,
      .undef08to0F 0x0F, .undef10to1F 0x10, .undef10to1F 0x1F, .undef20to3F 0x20, .undef20to3F 0x3F, .undef40to7F 0x40,
      .undef40to7F 0x7F, .undef80toFF 0x80, .undef80toFF 0xFF].all Instr.wellFormed = true := by decide

theorem witness_DecodedBytesAreTheFrame :
    decode [0xDE, 0xAD, 0xBE, 0xAF, 0x02, 0x05, 0x06, 0x07, 0x08, 0x09] = .ok (.write 0x05 0x06 0x07 0x08, [0x09]) := rfl

/-- Each reason for rejection holds of some bytes, on both sides of the statement's equivalences. -/
theorem witness_NonFramesAreRejectedByReason :
    rejected [0xDE, 0xAD, 0xBE, 0xAF] = some .tooShort ∧ rejected [0xDE, 0xAD, 0xBE, 0xAF, 0x01] = none ∧
    rejected [0xDE, 0xAD, 0xBE, 0xAE, 0x01] = some .badMarker ∧
    rejected [0xDE, 0xAD, 0xBE, 0xAF, 0x02, 0x01, 0x02, 0x03] = some .payloadIncomplete ∧
    rejected [0xDE, 0xAD, 0xBE, 0xAF, 0x02, 0x01, 0x02, 0x03, 0x04] = none := by decide

theorem witness_EveryFrameSelectsItsRowAlone :
    (Instr.undef10to1F 0x1F).wellFormed = true ∧ tableRows[6]? = some ⟨5, 0xDEADBEAF10, 0xFFFFFFFFF0⟩ ∧
    tableRows[9]? = some ⟨5, 0xDEADBEAF80, 0xFFFFFFFF80⟩ := by decide

theorem witness_TableWordsDecodeUnderBothNumberings :
    (Instr.write 0xDE 0xAD 0xBE 0xAF).wellFormed = true ∧ (Instr.undef80toFF 0xDE).wellFormed = true := by decide

theorem witness_ResetEventRestoresResetState :
    (withTurns [.reset, .run] (dispatching 0x02 [0x11])).env.sched = .reset :: [.run] := by decide

theorem witness_PushStoresOrDrops :
    ((nearlyFull.w - nearlyFull.r).toNat = 14 ∧ (nearlyFull.w - nearlyFull.r).toNat < 15) ∧
    ((full.w - full.r).toNat = 15 ∧ ¬ (full.w - full.r).toNat < 15) := by decide

theorem witness_OccupiedLengthCountsPushesUpToFifteen :
    occupiedLength nearlyFull ≤ 15 ∧ occupiedLength full ≤ 15 := by decide

/-- At the last offset of the window, with room for the push and without. -/
theorem witness_PeekReadsTheWindowWhateverIsPushed :
    (occupiedLength nearlyFull ≤ 15 ∧ 13 < occupiedLength nearlyFull ∧
      nearlyFull.buf.read ((nearlyFull.r.toNat + 13) % 16) = some 0xDE) ∧
    (occupiedLength full ≤ 15 ∧ 14 < occupiedLength full ∧ full.buf.read ((full.r.toNat + 14) % 16) = some 0xAD) := by
  decide

theorem witness_ConsumeAdvancesReadCounter : 15 ≤ occupiedLength full ∧ 0 ≤ occupiedLength (emptyAt 0x00) := by decide

theorem witness_UsesOutsideTheWindowAreRefused :
    occupiedLength (holding 0x00 [0x01]) ≤ 1 ∧ occupiedLength (holding 0x00 [0x01]) < 2 := by decide

theorem witness_AwaitAndPopWaitForBytes :
    4 ≤ occupiedLength (holding 0xFE [0x01, 0x02, 0x03, 0x04]) ∧ occupiedLength (holding 0xFE [0x01, 0x02, 0x03]) < 4 ∧
    (1 ≤ occupiedLength (holding 0xFF [0x01]) ∧
      (holding 0xFF [0x01]).buf.read ((holding 0xFF [0x01]).r.toNat % 16) = some 0x01) ∧
    occupiedLength (emptyAt 0xFF) = 0 := by decide

/-- The invariants hold of the states the witnesses use. -/
theorem invariants_full : Invariants full :=
  ⟨by decide, by decide, by decide, by decide, by decide, by decide⟩

theorem witness_BytesLeaveInTheOrderTheyWerePushed :
    Invariants full ∧ (queue full).length = 15 ∧ (consume 4 full = .next (full.setR 0xFE)) ∧ Invariants nearlyFull ∧
    (queue nearlyFull).length = 14 :=
  ⟨invariants_full, by decide, rfl, ⟨by decide, by decide, by decide, by decide, by decide, by decide⟩, by decide⟩

theorem witness_CanonicalMemoriesReadingAlikeAreEqual :
    Memory.wf [(0, 0x11), (15, 0x22)] = true ∧
    ∀ slot, Memory.read [(0, 0x11), (15, 0x22)] slot = Memory.read [(0, 0x11), (15, 0x22)] slot :=
  ⟨by decide, fun _ => rfl⟩

theorem witness_IdleHoldsUntilFiveBytes :
    let s := holding 0xFE [0xDE, 0xAD, 0xBE, 0xAF]
    s.pw = .active ∧ s.ps = .idle ∧ occupiedLength s ≤ 4 := by decide

/-- Five bytes and no more, the marker in slots 14, 15, 0, 1. -/
theorem witness_MarkerMatchConsumesTheMarker :
    let s := holding 0xFE [0xDE, 0xAD, 0xBE, 0xAF, 0x01]
    s.pw = .active ∧ s.ps = .idle ∧ 4 < occupiedLength s ∧
    memRead s s.r = some 0xDE ∧ memRead s (s.r + 1) = some 0xAD ∧
    memRead s (s.r + 2) = some 0xBE ∧ memRead s (s.r + 3) = some 0xAF := by decide

/-- A mismatch in one bit at the first position, and at the last. -/
theorem witness_MismatchDiscardsExactlyOneByte :
    (let s := holding 0xFE [0x5E, 0xAD, 0xBE, 0xAF, 0x01]
     s.pw = .active ∧ s.ps = .idle ∧ 4 < occupiedLength s ∧ memRead s s.r = some 0x5E ∧ memRead s (s.r + 1) = some 0xAD ∧
     memRead s (s.r + 2) = some 0xBE ∧ memRead s (s.r + 3) = some 0xAF ∧ (0x5E : Byte) ≠ 0xDE) ∧
    (let s := holding 0xFE [0xDE, 0xAD, 0xBE, 0xAE, 0x01]
     s.pw = .active ∧ s.ps = .idle ∧ 4 < occupiedLength s ∧ memRead s s.r = some 0xDE ∧ memRead s (s.r + 1) = some 0xAD ∧
     memRead s (s.r + 2) = some 0xBE ∧ memRead s (s.r + 3) = some 0xAE ∧ (0xAE : Byte) ≠ 0xAF) := by decide

theorem witness_CommandFetchConsumesOneByte :
    let s := { holding 0xFF [0x01] with ps := .markerFound }
    s.pw = .active ∧ s.ps = .markerFound ∧ 1 ≤ occupiedLength s ∧ memRead s s.r = some 0x01 := by decide

theorem witness_CommandByteSelectsTheInstruction :
    (let s := dispatching 0x01 []
     s.pw = .active ∧ s.ps = .dispatching ∧ s.cmd = 0x01) ∧
    (let s := dispatching 0x02 [0x10, 0x20, 0x30, 0x40]
     s.pw = .active ∧ s.ps = .dispatching ∧ s.cmd = 0x02 ∧ 4 ≤ occupiedLength s ∧ memRead s s.r = some 0x10 ∧
     memRead s (s.r + 1) = some 0x20 ∧ memRead s (s.r + 2) = some 0x30 ∧ memRead s (s.r + 3) = some 0x40) ∧
    (let s := dispatching 0x02 [0x10, 0x20, 0x30]
     s.pw = .active ∧ s.ps = .dispatching ∧ s.cmd = 0x02 ∧ occupiedLength s < 4) ∧
    (let s := dispatching 0x03 []
     s.pw = .active ∧ s.ps = .dispatching ∧ s.cmd ≠ 0x01 ∧ s.cmd ≠ 0x02) := by decide

/-- The source's stream (S4): three bytes of noise, no earlier marker. -/
theorem witness_ScannerReachesTheFirstMarker :
    let s := holding 0xFE [0xDE, 0xAD, 0x00, 0xDE, 0xAD, 0xBE, 0xAF, 0x01]
    Invariants s ∧ s.pw = .active ∧ s.ps = .idle ∧ s.env.sched = [] ∧
    queue s = [0xDE, 0xAD, 0x00] ++ 0xDE :: 0xAD :: 0xBE :: 0xAF :: 0x01 :: [] ∧
    ∀ k < [0xDE, 0xAD, 0x00].length, ((queue s).drop k).take 4 ≠ [0xDE, 0xAD, 0xBE, 0xAF] :=
  ⟨⟨by decide, by decide, by decide, by decide, by decide, by decide⟩, by decide, by decide, by decide, by decide,
    by decide⟩

/-- A READ in its reply, at each of its four bytes. -/
def readAt (txi : Fin 4) : State :=
  { dispatching 0x01 [0x99] with txi := txi }

theorem witness_ReadTransmitsTheNextByte :
    ∀ i : Fin 4, (readAt i).ps = .dispatching ∧ (readAt i).cmd = 0x01 ∧ (readAt i).pw = .active ∧
      (readAt i).env.txReady = true ∧ (readAt i).txi = i := by decide

theorem witness_ReadWaitsForTheChannel :
    let s := (readAt 3).setTxReady false
    s.ps = .dispatching ∧ s.cmd = 0x01 ∧ s.pw = .active ∧ s.env.txReady = false := by decide

theorem witness_ReadReplyIsTheStoredValue :
    (readAt 0).ps = .dispatching ∧ (readAt 0).cmd = 0x01 ∧ (readAt 0).pw = .active ∧ (readAt 0).txi = 0 ∧
    (readAt 0).env.txReady = true ∧ (readAt 0).env.sched = [] := by decide

/-- A byte received in the middle of a reply, and the fourth byte of one. -/
theorem witness_ReplyKeepsItsOrderUnderInterference :
    (let s := ((readAt 2).setTx [0x07, 0x11, 0x22]).setSched [.rx 0x99]
     s.ps = .dispatching ∧ s.cmd = 0x01 ∧ s.pw = .active ∧
     s.env.tx = [0x07] ++ [s.sv.b0, s.sv.b1, s.sv.b2, s.sv.b3].take s.txi.val ∧ nextTurn s ≠ .reset ∧
     (nextOf (step s)).isSome) ∧
    (let s := ((readAt 3).setTx [0x07, 0x11, 0x22, 0x33]).setSched [.run]
     s.ps = .dispatching ∧ s.cmd = 0x01 ∧ s.pw = .active ∧
     s.env.tx = [0x07] ++ [s.sv.b0, s.sv.b1, s.sv.b2, s.sv.b3].take s.txi.val ∧ nextTurn s ≠ .reset ∧
     (nextOf (step s)).isSome) := by decide

theorem witness_WriteReplacesTheStoredValue :
    let s := dispatching 0x02 [0x10, 0x20, 0x30, 0x40]
    s.ps = .dispatching ∧ s.cmd = 0x02 ∧ s.pw = .active ∧ 4 ≤ occupiedLength s := by decide

/-- With four bytes occupied, and with three. -/
theorem witness_WriteCapturesTheFourOldestBytes :
    (let s := dispatching 0x02 [0x10, 0x20, 0x30, 0x40]
     s.ps = .dispatching ∧ s.cmd = 0x02 ∧ s.pw = .active ∧ 4 ≤ occupiedLength s ∧ memRead s s.r = some 0x10 ∧
     memRead s (s.r + 1) = some 0x20 ∧ memRead s (s.r + 2) = some 0x30 ∧ memRead s (s.r + 3) = some 0x40) ∧
    (let s := dispatching 0x02 [0x10, 0x20, 0x30]
     s.ps = .dispatching ∧ s.cmd = 0x02 ∧ s.pw = .active ∧ occupiedLength s < 4) := by decide

/-- A WRITE with three of its four bytes. -/
def stalled : State :=
  dispatching 0x02 [0x10, 0x20, 0x30]

theorem witness_WriteWaitsForItsPayload :
    stalled.ps = .dispatching ∧ stalled.cmd = 0x02 ∧ stalled.pw = .active ∧ occupiedLength stalled < 4 := by decide

/-- With a turn of the Consumer, and with a received byte. -/
theorem witness_OnlyBytesOrResetEndAStalledWrite :
    (stalled.ps = .dispatching ∧ stalled.cmd = 0x02 ∧ stalled.pw = .active ∧ occupiedLength stalled < 4 ∧
      step stalled = .next stalled ∧ nextTurn stalled ≠ .reset) ∧
    (let s := withTurns [.rx 0x40] stalled
     s.ps = .dispatching ∧ s.cmd = 0x02 ∧ s.pw = .active ∧ occupiedLength s < 4 ∧ step s = .next (push 0x40 stalled) ∧
     nextTurn s ≠ .reset) :=
  ⟨⟨by decide, by decide, by decide, by decide, rfl, by decide⟩,
    ⟨by decide, by decide, by decide, by decide, rfl, by decide⟩⟩

/-- The eight rows, at both ends of each range. -/
theorem witness_UndefRowsGoToSleepAndDoNothingElse :
    ((dispatching 0x00 []).ps = .dispatching ∧ (dispatching 0x00 []).pw = .active ∧ (dispatching 0x00 []).cmd = 0x00) ∧
    (dispatching 0x03 []).cmd = 0x03 ∧
    ([(0x04, 0x07), (0x08, 0x0F), (0x10, 0x1F), (0x20, 0x3F), (0x40, 0x7F), (0x80, 0xFF)] : List (Byte × Byte)).all
      (fun p => [p.1, p.2].all fun c =>
        (dispatching c []).ps = .dispatching ∧ (dispatching c []).pw = .active ∧ p.1 ≤ (dispatching c []).cmd ∧
          (dispatching c []).cmd ≤ p.2) = true := by decide

/-- A byte sent, the reply ended, a wait, and a sleeping block. -/
theorem witness_ReadFrame :
    (nextOf (exec .read (readAt 2))).isSome ∧ (readAt 2).txi ≠ 3 ∧ (nextOf (exec .read (readAt 3))).isSome ∧
    (nextOf (exec .read ((readAt 3).setTxReady false))).isSome ∧ (nextOf (exec .read ((readAt 0).setPw .asleep))).isSome := by
  decide

theorem witness_WriteFrame :
    (nextOf (exec (.write 0x10 0x20 0x30 0x40) (dispatching 0x02 [0x10, 0x20, 0x30, 0x40]))).isSome ∧
    (nextOf (exec (.write 0x10 0x20 0x30 0x40) stalled)).isSome := by decide

theorem witness_UndefFrame :
    2 ≤ (Instr.undef80toFF 0xFF).rowNumber ∧ (nextOf (exec (.undef80toFF 0xFF) (dispatching 0xFF [0x77]))).isSome ∧
    2 ≤ Instr.undef00.rowNumber ∧ (nextOf (exec .undef00 (dispatching 0x00 []))).isSome := by decide

theorem witness_CommandsNotDispatchedAreRefused :
    (emptyAt 0x00).ps ≠ .dispatching ∧ (dispatching 0x02 []).cmd ≠ Instr.read.cmdByte ∧
    (let s := (dispatching 0x01 []).setPw .asleep
     Instr.read.wellFormed = true ∧ s.ps = .dispatching ∧ s.cmd = Instr.read.cmdByte ∧ s.pw = .asleep) := by decide

theorem witness_StepExecutesTheDispatchedInstruction :
    let s := withTurns [.consumer, .run] (dispatching 0x02 [0x10, 0x20, 0x30, 0x40])
    nextTurn s = .consumer ∧ s.pw = .active ∧ s.ps = .dispatching ∧
    operandBytes s = .next [0x10, 0x20, 0x30, 0x40] ∧
    decodeCommand s.cmd [0x10, 0x20, 0x30, 0x40] = .ok (.write 0x10 0x20 0x30 0x40, []) :=
  ⟨by decide, by decide, by decide, rfl, rfl⟩

/-- The longest frame and a byte behind it, across both wraps. -/
theorem witness_FrameAtTheHeadIsFetchedAndExecuted :
    let s := holding 0xFE [0xDE, 0xAD, 0xBE, 0xAF, 0x02, 0x10, 0x20, 0x30, 0x40, 0xDE]
    Invariants s ∧ s.pw = .active ∧ s.ps = .idle ∧ s.env.sched = [] ∧ (Instr.write 0x10 0x20 0x30 0x40).wellFormed = true ∧
    queue s = encode (.write 0x10 0x20 0x30 0x40) ++ [0xDE] :=
  ⟨⟨by decide, by decide, by decide, by decide, by decide, by decide⟩, by decide, by decide, by decide, by decide,
    by decide⟩

theorem witness_PlacedTableWordIsExecutedNext :
    (Instr.write 0xDE 0xAD 0xBE 0xAF).wellFormed = true ∧ (Instr.undef40to7F 0x7F).wellFormed = true ∧ State.reset.buf.wf = true ∧ full.buf.wf = true := by decide

/-- With room for the byte, and without. -/
theorem witness_ReceivedByteIsPushedAndWakes :
    ((withTurns [.rx 0x77, .run] nearlyFull).env.sched = .rx 0x77 :: [.run] ∧
      occupiedLength (withTurns [.rx 0x77, .run] nearlyFull) < 15) ∧
    ((withTurns [.rx 0x77] full).env.sched = .rx 0x77 :: [] ∧ ¬ occupiedLength (withTurns [.rx 0x77] full) < 15) := by decide

theorem witness_PinEventOnlyWakes :
    (withTurns [.wakePin, .run] ((emptyAt 0x05).setPw .asleep)).env.sched = .wakePin :: [.run] := by decide

theorem witness_SleepingConsumerTakesNoStep : ((full.setPw .asleep).setTxReady true).pw = .asleep := by decide

/-- The three commands that end. -/
theorem witness_SleepOnlyAtTheEndOfACommand :
    Invariants (readAt 3) ∧ Invariants (dispatching 0x02 [0x10, 0x20, 0x30, 0x40]) ∧ Invariants (dispatching 0x07 []) ∧
    [readAt 3, dispatching 0x02 [0x10, 0x20, 0x30, 0x40], dispatching 0x07 []].all (fun s =>
      s.pw = .active ∧ (nextOf (step s)).map State.pw = some .asleep) = true :=
  ⟨⟨by decide, by decide, by decide, by decide, by decide, by decide⟩,
    ⟨by decide, by decide, by decide, by decide, by decide, by decide⟩,
    ⟨by decide, by decide, by decide, by decide, by decide, by decide⟩, by decide⟩

/-- A block asleep with a whole frame in the buffer (V28), and each kind of turn. -/
theorem witness_OnlyWakeEventsEndSleep :
    let s := (holding 0xFE [0xDE, 0xAD, 0xBE, 0xAF, 0x01]).setPw .asleep
    s.pw = .asleep ∧ [Turn.rx 0x01, .wakePin, .reset, .consumer, .run, .txReady false].map
        (fun t => (nextOf (step (withTurns [t] s))).map State.pw)
      = [some .active, some .active, some .active, some .asleep, some .asleep, some .asleep] := by decide

/-- A match, a command fetch, and the ends of the three commands. -/
theorem witness_ParserChangesStateOnlyByTheTable :
    let found := { holding 0xFF [0x01] with ps := .markerFound }
    (Invariants (holding 0xFE [0xDE, 0xAD, 0xBE, 0xAF, 0x01]) ∧ Invariants found ∧ Invariants (readAt 3) ∧
      Invariants (dispatching 0x02 [0x10, 0x20, 0x30, 0x40]) ∧ Invariants (dispatching 0x07 [])) ∧
    [holding 0xFE [0xDE, 0xAD, 0xBE, 0xAF, 0x01], found, readAt 3, dispatching 0x02 [0x10, 0x20, 0x30, 0x40],
      dispatching 0x07 []].map (fun s => (nextOf (step s)).map State.ps)
      = [some .markerFound, some .dispatching, some .idle, some .idle, some .idle] :=
  ⟨⟨⟨by decide, by decide, by decide, by decide, by decide, by decide⟩,
    ⟨by decide, by decide, by decide, by decide, by decide, by decide⟩,
    ⟨by decide, by decide, by decide, by decide, by decide, by decide⟩,
    ⟨by decide, by decide, by decide, by decide, by decide, by decide⟩,
    ⟨by decide, by decide, by decide, by decide, by decide, by decide⟩⟩, by decide⟩

theorem witness_SleepKeepsTheState :
    let s := (holding 0xFE [0xDE, 0xAD, 0xBE, 0xAF, 0x01]).setPw .asleep
    (s.pw = .asleep ∧ (nextOf (step s)).isSome ∧ nextTurn s ≠ .reset) ∧
    ((withTurns [.rx 0x01] s).pw = .asleep ∧ (nextOf (step (withTurns [.rx 0x01] s))).isSome ∧
      nextTurn (withTurns [.rx 0x01] s) ≠ .reset) := by decide

theorem witness_StoredValueChangesOnlyInACapture :
    let s := dispatching 0x02 [0x10, 0x20, 0x30, 0x40]
    Invariants s ∧ nextTurn s ≠ .reset ∧ ∃ t, step s = .next t ∧ t.sv ≠ s.sv :=
  ⟨⟨by decide, by decide, by decide, by decide, by decide, by decide⟩, by decide, _, rfl, by decide⟩

/-- A push that stores, a command fetch, and a match. -/
theorem witness_CountersMoveOnlyByTheirOperations :
    (Invariants (withTurns [.rx 0x77] nearlyFull) ∧
      (nextOf (step (withTurns [.rx 0x77] nearlyFull))).map State.w = some 0x09) ∧
    (Invariants full ∧ (nextOf (step full)).map State.r = some 0xFB) ∧
    (Invariants (holding 0xFE [0xDE, 0xAD, 0xBE, 0xAF, 0x01]) ∧
      (nextOf (step (holding 0xFE [0xDE, 0xAD, 0xBE, 0xAF, 0x01]))).map State.r = some 0x02) :=
  ⟨⟨⟨by decide, by decide, by decide, by decide, by decide, by decide⟩, by decide⟩, ⟨invariants_full, by decide⟩,
    ⟨⟨by decide, by decide, by decide, by decide, by decide, by decide⟩, by decide⟩⟩

theorem witness_EveryStepKeepsTheInvariants : Invariants full ∧ ∃ t, step full = .next t ∧ t.r = full.r + 1 :=
  ⟨invariants_full, _, rfl, by decide⟩

theorem witness_NoStepFaultsOrIsRefused : Invariants full := invariants_full

theorem witness_BlockRefinesABoundedQueue : Invariants full ∧ (Abs.step (abstractView full)).queue = (queue full).drop 1 :=
  ⟨invariants_full, by decide⟩

theorem witness_TransmitStreamIsNeverReadBack :
    nextTurn (readAt 2) ≠ .reset ∧ (nextOf (step (readAt 2))).map (fun t => t.env.tx) = some [0x33] := by decide

theorem witness_CommandByteIsReadOnlyInDispatching :
    full.ps ≠ .dispatching ∧ (nextOf (step full)).isSome ∧
    (let s := { holding 0xFF [0x01] with ps := .markerFound }
     s.ps ≠ .dispatching ∧ (nextOf (step s)).isSome) := by decide

/-- A turn of the Consumer, and a `RUN` in a stalled WRITE. -/
theorem witness_TxReadyIsSampledOnlyInAReply :
    (Invariants full ∧ ¬ (full.pw = .active ∧ full.ps = .dispatching ∧ full.cmd = 0x01) ∧
      ∀ l, nextTurn full ≠ .txReady l) ∧
    (let s := withTurns [.run] stalled
     Invariants s ∧ ¬ (s.pw = .active ∧ s.ps = .dispatching ∧ s.cmd = 0x01) ∧ ∀ l, nextTurn s ≠ .txReady l) :=
  ⟨⟨invariants_full, by decide, by decide⟩,
    ⟨⟨by decide, by decide, by decide, by decide, by decide, by decide⟩, by decide, by decide⟩⟩

/-- A state in which the Consumer holds, and one in which it does not. -/
theorem witness_ConsumerChangesNothingExactlyWhenItHolds :
    Invariants stalled ∧ consumerEnabled stalled = false ∧ Invariants full ∧ consumerEnabled full = true :=
  ⟨⟨by decide, by decide, by decide, by decide, by decide, by decide⟩, by decide, invariants_full, by decide⟩

theorem witness_RunEndsWithinTwentyTwoSteps :
    Invariants (withTurns [.run, .wakePin] full) ∧ (withTurns [.run, .wakePin] full).env.sched = .run :: [.wakePin] :=
  ⟨⟨by decide, by decide, by decide, by decide, by decide, by decide⟩, by decide⟩

/-- P1, from a sleeping block with its counters about to wrap. -/
theorem witness_WrittenValueIsReadBack :
    let s := withTurns ((Stimulus.write 0x11 0x22 0x33 0x44).turns ++ [.run] ++ Stimulus.read.turns ++ [.run])
      ((emptyAt 0xFA).setPw .asleep)
    Invariants s ∧ s.ps = .idle ∧ queue s = [] ∧ s.env.txReady = true ∧
    s.env.sched = (Stimulus.write 0x11 0x22 0x33 0x44).turns ++ [.run] ++ Stimulus.read.turns ++ [.run] :=
  ⟨⟨by decide, by decide, by decide, by decide, by decide, by decide⟩, by decide, by decide, by decide, by decide⟩

end Sys2Proof.Tests
end

section
/-! Proofs about the encoding: what a command byte decodes to, and what the decoded instruction's constructor says of
that byte. -/

namespace Sys2Proof.Machine

/-- The marker at the head of the bytes leaves the rest to the command byte (R82, R83). -/
@[simp] theorem decode_marker_cons (c : Byte) (bs : List Byte) :
    decode (0xDE :: 0xAD :: 0xBE :: 0xAF :: c :: bs) = decodeCommand c bs :=
  rfl

/-- The three formats of R85, read back from a command that decodes. -/
theorem decodeCommand_cases {c : Byte} {bs after : List Byte} {i : Instr} (h : decodeCommand c bs = .ok (i, after)) :
    (c = Config.readCmd ∧ i = .read ∧ after = bs) ∨
    (c = Config.writeCmd ∧ ∃ p0 p1 p2 p3, i = .write p0 p1 p2 p3 ∧ bs = p0 :: p1 :: p2 :: p3 :: after) ∨
    (c ≠ Config.readCmd ∧ c ≠ Config.writeCmd ∧ i = undefInstr c ∧ after = bs) := by
  by_cases hread : c = Config.readCmd
  · subst hread
    rw [decodeCommand_read] at h
    cases h
    exact .inl ⟨rfl, rfl, rfl⟩
  by_cases hwrite : c = Config.writeCmd
  · subst hwrite
    match bs, h with
    | p0 :: p1 :: p2 :: p3 :: tail, h =>
      rw [decodeCommand_write] at h
      cases h
      exact .inr (.inl ⟨rfl, p0, p1, p2, p3, rfl, rfl⟩)
  · rw [decodeCommand_undef bs hread hwrite] at h
    cases h
    exact .inr (.inr ⟨hread, hwrite, rfl, rfl⟩)

/-- What decodes fits its row of R96 and has the command byte it was decoded from. -/
theorem decodeCommand_fits {c : Byte} {bs after : List Byte} {i : Instr} (h : decodeCommand c bs = .ok (i, after)) :
    i.wellFormed = true ∧ i.cmdByte = c := by
  obtain ⟨rfl, rfl, -⟩ | ⟨rfl, p0, p1, p2, p3, rfl, -⟩ | ⟨hread, hwrite, rfl, -⟩ := decodeCommand_cases h
  · exact ⟨rfl, rfl⟩
  · exact ⟨rfl, rfl⟩
  · exact undefInstr_fits c hread hwrite

/-- No UNDEF row's pattern fits the command byte of a READ (R96). -/
theorem eq_read_iff_cmdByte {i : Instr} (hw : i.wellFormed = true) : i = .read ↔ i.cmdByte = Config.readCmd := by
  refine ⟨fun h => h ▸ rfl, fun hc => ?_⟩
  cases i with
  | read => rfl
  | write | undef00 | undef03 => simp [Instr.cmdByte, Config.readCmd, Config.writeCmd] at hc
  | undef04to07 | undef08to0F | undef10to1F | undef20to3F | undef40to7F | undef80toFF =>
    cases hc
    exact absurd hw (by decide)

/-- No UNDEF row's pattern fits the command byte of a WRITE (R96). -/
theorem eq_write_iff_cmdByte {i : Instr} (hw : i.wellFormed = true) :
    (∃ p0 p1 p2 p3, i = .write p0 p1 p2 p3) ↔ i.cmdByte = Config.writeCmd := by
  refine ⟨fun ⟨_, _, _, _, h⟩ => h ▸ rfl, fun hc => ?_⟩
  cases i with
  | write p0 p1 p2 p3 => exact ⟨p0, p1, p2, p3, rfl⟩
  | read | undef00 | undef03 => simp [Instr.cmdByte, Config.readCmd, Config.writeCmd] at hc
  | undef04to07 | undef08to0F | undef10to1F | undef20to3F | undef40to7F | undef80toFF =>
    cases hc
    exact absurd hw (by decide)

/-- Settles O2: what decodes is well-formed with the frame's byte 4 as its command byte, and among well-formed
instructions that byte alone tells READ and WRITE from every other row (R83). -/
theorem commandByteIsComparedWhole : Obligations.CommandByteIsComparedWhole := by
  unfold Obligations.CommandByteIsComparedWhole
  intro c rest after i h
  rw [decode_marker_cons] at h
  obtain ⟨hw, rfl⟩ := decodeCommand_fits h
  exact ⟨eq_read_iff_cmdByte hw, eq_write_iff_cmdByte hw, rfl⟩

end Sys2Proof.Machine
end

section
/-! Proofs about the ring buffer's operations: what a push writes and what a consume frees. -/

namespace Sys2Proof.Machine

/-- An admitted push writes the slot of the old `W` (R51, R101). -/
theorem read_push_written (b : Byte) {s : State} (h : occupiedLength s < 15) :
    (push b s).buf.read (slotOf s.w) = some b := by
  rw [push_admitted b h, setW_buf, memWrite_buf, read_write_same]

/-- A push, stored or dropped, keeps every slot but the one of the old `W` (R101). -/
theorem read_push_other (b : Byte) (s : State) {slot : Nat} (hslot : slot ≠ slotOf s.w) :
    (push b s).buf.read slot = s.buf.read slot := by
  obtain ⟨-, h⟩ | ⟨-, h⟩ := push_cases b s
  · rw [h, setW_buf, memWrite_buf, read_write_other _ _ hslot]
  · rw [h]

/-- An admitted push changes `BUF` and `W` only (R101). -/
theorem push_frame (b : Byte) {s : State} (h : occupiedLength s < 15) :
    push b s = { s with buf := (push b s).buf, w := s.w + 1 } := by
  rw [push_admitted b h]
  rfl

/-- Consuming occupied bytes frees as many slots (R104). -/
theorem occupiedLength_setR_add {s : State} {n : Nat} (h : n ≤ occupiedLength s) :
    occupiedLength (s.setR (s.r + BitVec.ofNat 8 n)) = occupiedLength s - n :=
  occupied_consume h

/-- Settles O12: below 15 occupied bytes the slot of the old `W` is written, and the frame and the other slots' reads
are the push's own lemmas; at 15 or more the push is dropped. -/
theorem pushStoresOrDrops : Obligations.PushStoresOrDrops := by
  unfold Obligations.PushStoresOrDrops
  intro b s
  rw [← slotOf_eq_mod]
  constructor
  · intro hroom
    exact ⟨push_frame b hroom, read_push_written b hroom, fun _ hslot => read_push_other b s hslot⟩
  · exact push_dropped b

/-- Settles O15: the state answered is the one with `R` moved by `n`, whose occupied length is `n` less. -/
theorem consumeAdvancesReadCounter : Obligations.ConsumeAdvancesReadCounter := by
  unfold Obligations.ConsumeAdvancesReadCounter
  intro s n hn
  exact ⟨s.setR (s.r + BitVec.ofNat 8 n), consume_of_le hn, rfl, occupiedLength_setR_add hn⟩

end Sys2Proof.Machine
end

section
/-! Proofs about the parser: what the Consumer does awake in each parser state, from what the oldest slots hold. -/

namespace Sys2Proof.Machine

/-! ### The operands, from what the oldest slots hold -/

/-- Four occupied slots give the four oldest bytes (R103, R123, R142). -/
theorem oldest_four_of_read {s : State} {b0 b1 b2 b3 : Byte} (hocc : 4 ≤ occupiedLength s)
    (h0 : memRead s s.r = some b0) (h1 : memRead s (s.r + 1) = some b1) (h2 : memRead s (s.r + 2) = some b2)
    (h3 : memRead s (s.r + 3) = some b3) : oldest 4 s = .next [b0, b1, b2, b3] := by
  have hp0 : peek 0 s = .next b0 := peek_of_read (by omega) (by simpa using h0)
  have hp1 : peek 1 s = .next b1 := peek_of_read (by omega) h1
  have hp2 : peek 2 s = .next b2 := peek_of_read (by omega) h2
  have hp3 : peek 3 s = .next b3 := peek_of_read (by omega) h3
  simp [oldest, peekFrom, hp0, hp1, hp2, hp3]

/-- The operand bytes of a WRITE whose payload is there are the four oldest (R142). -/
theorem operandBytes_of_payload {s : State} (hc : s.cmd = Config.writeCmd) (hocc : 4 ≤ occupiedLength s) :
    operandBytes s = oldest 4 s := by
  simp [operandBytes, isWrite, hc, Config.payloadSize, hocc]

/-! ### The fetch steps -/

/-- With a fifth byte behind them, the four oldest bytes alone choose between MATCH and RESYNC (R123). -/
theorem idleStep_of_oldest {s : State} {bytes : List Byte} (hocc : 4 < occupiedLength s)
    (hbytes : oldest 4 s = .next bytes) :
    idleStep s = if bytes = Config.marker then matchStep s else resyncStep s := by
  simp [idleStep, Config.markerLen, hocc, hbytes, markerMatches]

/-- MATCH (R124). -/
theorem matchStep_eq {s : State} (hocc : 4 ≤ occupiedLength s) :
    matchStep s = .next ((s.setR (s.r + 4)).setPs .markerFound) := by
  simp [matchStep, Config.markerLen, consume_of_le hocc]

/-- RESYNC (R125). -/
theorem resyncStep_eq {s : State} (hocc : 1 ≤ occupiedLength s) : resyncStep s = .next (s.setR (s.r + 1)) :=
  consume_of_le hocc

/-- CMDFETCH takes the oldest byte, whatever its value (R126). -/
theorem cmdFetch_of_read {s : State} {c : Byte} (hocc : 1 ≤ occupiedLength s) (h : memRead s s.r = some c) :
    cmdFetch s = .next (((s.setR (s.r + 1)).setCmd c).setPs .dispatching) := by
  have hpeek : peek 0 s = .next c := peek_of_read hocc (by simpa using h)
  simp [cmdFetch, pop, await_of_le _ hocc, hpeek, consume_of_le hocc]

/-! ### The dispatch -/

/-- A WRITE is dispatched with the four oldest bytes as its payload (R127, R142). -/
theorem dispatchStep_write_of_oldest {s : State} {p0 p1 p2 p3 : Byte} (hc : s.cmd = Config.writeCmd)
    (hocc : 4 ≤ occupiedLength s) (hbytes : oldest 4 s = .next [p0, p1, p2, p3]) :
    dispatchStep s = exec (.write p0 p1 p2 p3) s := by
  simp [dispatchStep, operandBytes_of_payload hc hocc, hbytes, hc]

/-- A WRITE holds while its payload is not all there, whichever payload it is given (R143). -/
theorem execWrite_hold {s : State} (p0 p1 p2 p3 : Byte) (hs : s.ps = .dispatching) (hc : s.cmd = Config.writeCmd)
    (hp : s.pw = .active) (hocc : occupiedLength s < 4) : execWrite p0 p1 p2 p3 s = .next s := by
  rw [execWrite, whenDispatched_eq _ hs hc hp]
  exact await_of_lt _ hocc

/-- The rows of READ and WRITE are no UNDEF row (R96). -/
theorem two_le_rowNumber_undefInstr (c : Byte) : 2 ≤ (undefInstr c).rowNumber := by
  unfold undefInstr
  repeat' split
  all_goals simp [Instr.rowNumber]

/-! ### The obligations -/

/-- Settles O24: the dispatch decodes `CMD` with its operand bytes: none for READ and UNDEF, the four oldest for a
WRITE that has them; a WRITE that has not holds, as its meaning does with any payload. -/
theorem commandByteSelectsTheInstruction : Obligations.CommandByteSelectsTheInstruction := by
  unfold Obligations.CommandByteSelectsTheInstruction
  intro s hp hs
  rw [consumerStep_dispatching hp hs]
  refine ⟨?read, ?write, ?stalled, ?undef⟩
  case read => exact dispatchStep_read
  case write =>
    intro p0 p1 p2 p3 hc hocc h0 h1 h2 h3
    exact dispatchStep_write_of_oldest hc hocc (oldest_four_of_read hocc h0 h1 h2 h3)
  case stalled =>
    intro p0 p1 p2 p3 hc hocc
    exact (dispatchStep_hold hc hocc).trans (execWrite_hold p0 p1 p2 p3 hs hc hp hocc).symm
  case undef =>
    intro hread hwrite
    obtain ⟨hwf, hcmd⟩ := undefInstr_fits s.cmd hread hwrite
    exact ⟨undefInstr s.cmd, hwf, hcmd, two_le_rowNumber_undefInstr s.cmd,
      (dispatchStep_undef hread hwrite).trans (exec_undefInstr s.cmd s).symm⟩

/-- Settles O20: the scan's threshold is strict, and the bytes are not looked at below it. -/
theorem idleHoldsUntilFiveBytes : Obligations.IdleHoldsUntilFiveBytes := by
  unfold Obligations.IdleHoldsUntilFiveBytes
  intro s hp hs hocc
  rw [consumerStep_idle hp hs, idleStep_hold hocc]

/-- Settles O21: the four oldest bytes are the marker, so the step is MATCH, which leaves at least one of the more than
four bytes. -/
theorem markerMatchConsumesTheMarker : Obligations.MarkerMatchConsumesTheMarker := by
  unfold Obligations.MarkerMatchConsumesTheMarker
  intro s hp hs hocc h0 h1 h2 h3
  have hmatch : idleStep s = matchStep s := by
    rw [idleStep_of_oldest hocc (oldest_four_of_read hocc.le h0 h1 h2 h3)]
    exact if_pos rfl
  have hleft : occupiedLength (s.setR (s.r + 4)) = occupiedLength s - 4 := occupied_setR hocc.le
  refine ⟨(s.setR (s.r + 4)).setPs .markerFound, ?_, rfl, ?_⟩
  · rw [consumerStep_idle hp hs, hmatch, matchStep_eq hocc.le]
  · rw [occupiedLength_congr (setPs_w _ _) (setPs_r _ _), hleft]
    omega

/-- Settles O22: a difference at any position makes the four oldest bytes another list than the marker, so the step is
RESYNC. -/
theorem mismatchDiscardsExactlyOneByte : Obligations.MismatchDiscardsExactlyOneByte := by
  unfold Obligations.MismatchDiscardsExactlyOneByte
  intro s m0 m1 m2 m3 hp hs hocc h0 h1 h2 h3 hdiff
  have hne : [m0, m1, m2, m3] ≠ Config.marker := by
    intro heq
    cases heq
    simp at hdiff
  have hresync : idleStep s = resyncStep s := by
    rw [idleStep_of_oldest hocc (oldest_four_of_read hocc.le h0 h1 h2 h3), if_neg hne]
  have hone : 1 ≤ occupiedLength s := by omega
  have hleft : occupiedLength (s.setR (s.r + 1)) = occupiedLength s - 1 := occupied_setR hone
  refine ⟨s.setR (s.r + 1), ?_, rfl, by omega⟩
  rw [consumerStep_idle hp hs, hresync, resyncStep_eq hone]

/-- Settles O23: awake in MarkerFound the Consumer's step is CMDFETCH. -/
theorem commandFetchConsumesOneByte : Obligations.CommandFetchConsumesOneByte := by
  unfold Obligations.CommandFetchConsumesOneByte
  intro s c hp hs hocc h
  rw [consumerStep_markerFound hp hs, cmdFetch_of_read hocc h]
  rfl

end Sys2Proof.Machine
end

section
/-! Proofs about the commands: a WRITE's capture, and what each turn does to a WRITE that waits for its payload. -/

namespace Sys2Proof.Machine

/-! ### A received byte with room for it -/

/-- An admitted push occupies one slot more (R101). -/
theorem occupiedLength_push (b : Byte) {s : State} (h : occupiedLength s < 15) :
    occupiedLength (push b s) = occupiedLength s + 1 := by
  rw [push_admitted b h]
  exact occupied_succ (by omega)

/-- An admitted push is read back at the old `W`, the youngest place of the window (R101). -/
theorem memRead_push_w (b : Byte) {s : State} (h : occupiedLength s < 15) : memRead (push b s) s.w = some b :=
  read_push_written b h

/-- The wake does nothing to a block that is awake (R164, R165). -/
theorem wake_of_active {s : State} (h : s.pw = .active) : wake s = s := by
  rw [wake, State.setPw, ← h]

/-! ### A stalled WRITE -/

/-- The block waits for the payload of a WRITE (R143, R221). -/
structure StalledWrite (s : State) : Prop where
  dispatching : s.ps = .dispatching
  command : s.cmd = Config.writeCmd
  awake : s.pw = .active
  short : occupiedLength s < 4

/-- The turns to come play no part in the stall. -/
theorem StalledWrite.afterTurn {s : State} (h : StalledWrite s) : StalledWrite (afterTurn s) :=
  ⟨h.dispatching, h.command, h.awake, h.short⟩

/-- The Consumer holds in a stalled WRITE (R143). -/
theorem StalledWrite.consumerStep_eq {s : State} (h : StalledWrite s) : consumerStep s = .next s := by
  rw [consumerStep_dispatching h.awake h.dispatching]
  exact dispatchStep_hold h.command h.short

/-- A stalled WRITE leaves the Consumer no enabled step (R143). -/
theorem StalledWrite.consumerEnabled_eq {s : State} (h : StalledWrite s) : consumerEnabled s = false := by
  have hpayload : payloadPresent s = false := by simpa [← Bool.not_eq_true] using h.short
  simp [consumerEnabled, h.awake, h.dispatching, h.command, isRead, isWrite, hpayload]

/-- A `RUN` ends at once in a stalled WRITE (R94, R143). -/
theorem StalledWrite.runTurn_eq {s : State} (h : StalledWrite s) : runTurn s = .next s := by
  simp [runTurn, h.consumerEnabled_eq]

/-- Everything a turn but RESET can do in a stalled WRITE: a received byte is pushed, and any other turn changes no more
than the Environment's side, and there not the transmit stream (R143, R221). -/
theorem StalledWrite.takeTurn_cases {s : State} (h : StalledWrite s) {turn : Turn} (hreset : turn ≠ .reset) :
    (∃ b, turn = .rx b ∧ takeTurn turn s = .next (push b s)) ∨
    ((∀ b, turn ≠ .rx b) ∧ ∃ env : Env, env.tx = s.env.tx ∧ takeTurn turn s = .next { s with env := env }) := by
  cases turn with
  | rx b =>
    have hwake : wake (push b s) = push b s := wake_of_active ((push_pw b s).trans h.awake)
    exact .inl ⟨b, rfl, congrArg _ hwake⟩
  | wakePin => exact .inr ⟨nofun, s.env, rfl, congrArg _ (wake_of_active h.awake)⟩
  | txReady level => exact .inr ⟨nofun, (s.setTxReady level).env, rfl, rfl⟩
  | reset => exact absurd rfl hreset
  | consumer => exact .inr ⟨nofun, s.env, rfl, h.consumerStep_eq⟩
  | run => exact .inr ⟨nofun, s.env, rfl, h.runTurn_eq⟩

/-! ### The obligations -/

/-- Settles O34: the step is the turn at the head of the schedule, so a received byte is pushed into a buffer that has
room, and any other turn leaves the block as it is. -/
theorem onlyBytesOrResetEndAStalledWrite : Obligations.OnlyBytesOrResetEndAStalledWrite := by
  unfold Obligations.OnlyBytesOrResetEndAStalledWrite
  intro s t hs hc hp hocc hstep hreset
  have hstalled : StalledWrite s := ⟨hs, hc, hp, hocc⟩
  rw [step_eq_takeTurn] at hstep
  obtain ⟨b, hturn, hnext⟩ | ⟨hturn, env, htx, hnext⟩ := hstalled.afterTurn.takeTurn_cases hreset
  · obtain rfl : push b (afterTurn s) = t := by simpa [hnext] using hstep
    have hroom : occupiedLength (afterTurn s) < 15 := Nat.lt_trans hocc (by decide)
    refine ⟨by simp [afterTurn, hs, hc, hp], fun hother => absurd hturn (hother b), fun b' hturn' => ?_⟩
    obtain rfl : b = b' := by simpa [hturn] using hturn'
    exact ⟨occupiedLength_push b hroom, memRead_push_w b hroom⟩
  · obtain rfl : { afterTurn s with env := env } = t := by simpa [hnext] using hstep
    exact ⟨⟨hs, hc, hp, rfl, rfl, rfl, htx⟩, fun _ => ⟨rfl, hocc⟩, fun b hrx => absurd hrx (hturn b)⟩

/-- Settles O32: the dispatched instruction is the WRITE of the four oldest bytes, whose meaning is the capture; with
fewer bytes the WRITE is stalled. -/
theorem writeCapturesTheFourOldestBytes : Obligations.WriteCapturesTheFourOldestBytes := by
  unfold Obligations.WriteCapturesTheFourOldestBytes
  intro s hs hc hp
  constructor
  · intro p0 p1 p2 p3 hocc h0 h1 h2 h3
    have hbytes : oldest 4 s = .next [p0, p1, p2, p3] := oldest_four_of_read hocc h0 h1 h2 h3
    calc consumerStep s = dispatchStep s := consumerStep_dispatching hp hs
      _ = exec (.write p0 p1 p2 p3) s := dispatchStep_write_of_oldest hc hocc hbytes
      _ = .next (finishCommand ((s.setSv ⟨p0, p1, p2, p3⟩).setR (s.r + 4))) := execWrite_eq p0 p1 p2 p3 hs hc hp hocc
  · exact fun hocc => StalledWrite.consumerStep_eq ⟨hs, hc, hp, hocc⟩

end Sys2Proof.Machine
end

section
/-! Proofs about power and the events: what each turn does to a sleeping block, and which turns put an awake one to
sleep. -/

namespace Sys2Proof.Machine

/-- A listed turn is the one the step takes (R18). -/
theorem step_of_sched {s : State} {turn : Turn} {rest : List Turn} (h : s.env.sched = turn :: rest) :
    step s = takeTurn turn (s.setSched rest) := by
  rw [step, nextStep, h]

/-! ### While asleep -/

/-- Asleep the Consumer has no enabled step (R162). -/
theorem consumerEnabled_asleep {s : State} (h : s.pw = .asleep) : consumerEnabled s = false := by
  simp [consumerEnabled, h]

/-- Asleep a `RUN` is over at once (R94, R162). -/
theorem runTurn_asleep {s : State} (h : s.pw = .asleep) : runTurn s = .next s := by
  simp [runTurn, consumerEnabled_asleep h]

/-- Every turn of a sleeping block answers, and the two wake sources and RESET are what leaves it awake (R163, R210). -/
theorem takeTurn_asleep {s : State} (h : s.pw = .asleep) (turn : Turn) :
    ∃ t, takeTurn turn s = .next t ∧
      (t.pw = .active ↔ (∃ b, turn = .rx b) ∨ turn = .wakePin ∨ turn = .reset) := by
  have hsleeps : ¬ s.pw = .active := by simp [h]
  cases turn with
  | rx b => exact ⟨onRx b s, rfl, iff_of_true (wake_pw _) (.inl ⟨b, rfl⟩)⟩
  | wakePin => exact ⟨onWakePin s, rfl, iff_of_true (wake_pw _) (.inr (.inl rfl))⟩
  | reset => exact ⟨onReset s, rfl, iff_of_true rfl (.inr (.inr rfl))⟩
  | txReady level => exact ⟨s.setTxReady level, rfl, iff_of_false hsleeps (by simp)⟩
  | consumer => exact ⟨s, consumerStep_asleep h, iff_of_false hsleeps (by simp)⟩
  | run => exact ⟨s, runTurn_asleep h, iff_of_false hsleeps (by simp)⟩

/-! ### Going to sleep -/

/-- The Consumer's next step is the last action of a command: the fourth byte of a READ with the channel ready, the
capture of a WRITE, or an UNDEF (R141, R142, R144). -/
structure EndsCommand (s : State) : Prop where
  dispatching : s.ps = .dispatching
  lastAction : (s.cmd = Config.readCmd ∧ s.txi = 3 ∧ s.env.txReady = true) ∨
    (s.cmd = Config.writeCmd ∧ 4 ≤ occupiedLength s) ∨ (s.cmd ≠ Config.readCmd ∧ s.cmd ≠ Config.writeCmd)

/-- The turns to come do not decide whether a command ends. -/
theorem EndsCommand.of_setSched {s : State} {l : List Turn} (h : EndsCommand (s.setSched l)) : EndsCommand s :=
  ⟨h.dispatching, h.lastAction⟩

/-- The Consumer's step keeps the power state, or it ends a command (R128, R169). -/
theorem Invariants.consumerStep_keeps_pw_or_ends {s : State} (hi : Invariants s) :
    (∃ t, consumerStep s = .next t ∧ t.pw = s.pw) ∨
    (EndsCommand s ∧ ∃ u, consumerStep s = .next (finishCommand u)) := by
  obtain ⟨-, hhold⟩ | ⟨-, -, hwork⟩ := hi.consumerStep_cases
  · exact .inl ⟨_, hhold, rfl⟩
  obtain ⟨-, -, -, hmatch⟩ | ⟨-, -, -, hresync⟩ | ⟨-, c, rest, -, hfetch⟩ | ⟨-, -, -, -, hbyte⟩ |
    ⟨hs, hc, hready, htxi, hlast⟩ | ⟨hs, hc, p0, p1, p2, p3, rest, hq, hcapture⟩ | ⟨hs, hread, hwrite, hundef⟩ := hwork
  · exact .inl ⟨_, hmatch, rfl⟩
  · exact .inl ⟨_, hresync, rfl⟩
  · exact .inl ⟨_, hfetch, rfl⟩
  · exact .inl ⟨_, hbyte, rfl⟩
  · exact .inr ⟨⟨hs, .inl ⟨hc, htxi, hready⟩⟩, _, hlast⟩
  · have hocc : 4 ≤ occupiedLength s := by simp [← hi.queue_length, hq]
    exact .inr ⟨⟨hs, .inr (.inl ⟨hc, hocc⟩)⟩, _, hcapture⟩
  · exact .inr ⟨⟨hs, .inr (.inr ⟨hread, hwrite⟩)⟩, _, hundef⟩

/-- A Consumer step that puts an awake block to sleep ends a command and goes to Idle (R169). -/
theorem Invariants.consumerStep_falls_asleep {s t : State} (hi : Invariants s) (h : consumerStep s = .next t)
    (hs : s.pw = .active) (ht : t.pw = .asleep) : EndsCommand s ∧ t.ps = .idle := by
  obtain ⟨u, hnext, hkeep⟩ | ⟨hends, u, hnext⟩ := hi.consumerStep_keeps_pw_or_ends
  · rw [hnext] at h
    cases h
    simp [hkeep, hs] at ht
  · rw [hnext] at h
    cases h
    exact ⟨hends, rfl⟩

/-- A turn that puts an awake block to sleep is a step of the Consumer, its own turn or in a `RUN` (R94, R161). -/
theorem takeTurn_falls_asleep {s t : State} {turn : Turn} (h : takeTurn turn s = .next t) (hs : s.pw = .active)
    (ht : t.pw = .asleep) :
    (turn = .consumer ∨ turn = .run) ∧ ∃ l, consumerStep (s.setSched l) = .next t := by
  cases turn with
  | rx b => cases h; simp [onRx] at ht
  | wakePin => cases h; simp [onWakePin] at ht
  | txReady level => cases h; simp [hs] at ht
  | reset => cases h; cases ht
  | consumer => exact ⟨.inl rfl, s.env.sched, h⟩
  | run =>
    change runTurn s = .next t at h
    obtain ⟨-, hstep⟩ | ⟨-, hover⟩ := runTurn_cases s
    · exact ⟨.inr rfl, _, hstep ▸ h⟩
    · rw [hover] at h
      cases h
      simp [hs] at ht

/-! ### The obligations -/

/-- Settles O47: the turn is a step of the Consumer, and under the invariants that step sleeps only where it ends a
command, which the turns to come do not decide. -/
theorem sleepOnlyAtTheEndOfACommand : Obligations.SleepOnlyAtTheEndOfACommand := by
  unfold Obligations.SleepOnlyAtTheEndOfACommand
  intro s t hi hstep hs ht
  rw [step_eq_takeTurn] at hstep
  obtain ⟨hturn, l, hconsumer⟩ := takeTurn_falls_asleep hstep hs ht
  obtain ⟨hends, hidle⟩ := ((hi.setSched _).setSched l).consumerStep_falls_asleep hconsumer hs ht
  obtain ⟨hdispatching, hlast⟩ := hends.of_setSched.of_setSched
  exact ⟨hdispatching, hidle, hturn, hlast⟩

/-- Settles O48: the step is the turn at the head of the schedule, which a sleeping block takes. -/
theorem onlyWakeEventsEndSleep : Obligations.OnlyWakeEventsEndSleep := by
  unfold Obligations.OnlyWakeEventsEndSleep
  intro s h
  rw [step_eq_takeTurn]
  have hafter : (afterTurn s).pw = .asleep := h
  exact takeTurn_asleep hafter (nextTurn s)

/-- Settles O44: the step is the wake handler's, whose one action is the wake. -/
theorem pinEventOnlyWakes : Obligations.PinEventOnlyWakes := by
  unfold Obligations.PinEventOnlyWakes
  intro s rest h
  calc step s = takeTurn .wakePin (s.setSched rest) := step_of_sched h
    _ = .next (wake (s.setSched rest)) := rfl

/-- Settles O45: the Consumer holds without an enabled step, and both handlers end in the wake. -/
theorem sleepingConsumerTakesNoStep : Obligations.SleepingConsumerTakesNoStep := by
  unfold Obligations.SleepingConsumerTakesNoStep
  intro s h
  exact ⟨consumerStep_asleep h, consumerEnabled_asleep h, fun b => wake_pw (push b s), wake_pw s⟩

end Sys2Proof.Machine
end

section
/-! Proofs about exceptions: under the invariants no agent's turn faults or is refused. -/

namespace Sys2Proof.Machine

/-- Under the invariants the Consumer's step answers a next state (R180). -/
theorem Invariants.consumerStep_answers {s : State} (hi : Invariants s) : ∃ t, consumerStep s = .next t := by
  obtain ⟨t, hkeep, -⟩ | ⟨-, u, hends⟩ := hi.consumerStep_keeps_pw_or_ends
  · exact ⟨t, hkeep⟩
  · exact ⟨finishCommand u, hends⟩

/-- Under the invariants a `RUN` turn answers a next state: the Consumer's step or the end of the turn (R94, R180). -/
theorem Invariants.runTurn_answers {s : State} (hi : Invariants s) : ∃ t, runTurn s = .next t := by
  obtain ⟨-, hstep⟩ | ⟨-, hover⟩ := runTurn_cases s
  · rw [hstep]
    exact (hi.setSched _).consumerStep_answers
  · exact ⟨s, hover⟩

/-- Under the invariants every agent's turn answers a next state: the handlers and the Environment's turns on every
state, the Consumer's turns by what its step can do (R180). -/
theorem Invariants.takeTurn_answers {s : State} (hi : Invariants s) (turn : Turn) : ∃ t, takeTurn turn s = .next t := by
  cases turn with
  | rx b => exact ⟨onRx b s, rfl⟩
  | wakePin => exact ⟨onWakePin s, rfl⟩
  | txReady level => exact ⟨s.setTxReady level, rfl⟩
  | reset => exact ⟨onReset s, rfl⟩
  | consumer => exact hi.consumerStep_answers
  | run => exact hi.runTurn_answers

/-! ### The obligation -/

/-- Settles O53: the step is the turn at the head of the schedule, and the turns to come play no part in the
invariants. -/
theorem noStepFaultsOrIsRefused : Obligations.NoStepFaultsOrIsRefused := by
  unfold Obligations.NoStepFaultsOrIsRefused
  intro s hi
  rw [step_eq_takeTurn]
  exact (hi.setSched s.env.sched.tail).takeTurn_answers (nextTurn s)

end Sys2Proof.Machine
end

section
/-! Proofs about the encoding: the decoder and the encoder are inverse to each other, and what is no frame is rejected. -/

namespace Sys2Proof.Machine

/-! ### From instructions to bytes and back -/

/-- A well-formed instruction is the one its command byte selects, unless that byte is a READ's or a WRITE's (R88, R96). -/
theorem undefInstr_cmdByte {i : Instr} (hw : i.wellFormed = true) (hread : i.cmdByte ≠ Config.readCmd)
    (hwrite : i.cmdByte ≠ Config.writeCmd) : undefInstr i.cmdByte = i := by
  cases i with
  | read => exact absurd rfl hread
  | write => exact absurd rfl hwrite
  | undef00 | undef03 => decide
  | undef04to07 c | undef08to0F c | undef10to1F c | undef20to3F c | undef40to7F c | undef80toFF c =>
    revert c
    decide

/-- The three kinds of well-formed instruction (R85). -/
theorem wellFormed_cases {i : Instr} (hw : i.wellFormed = true) :
    i = .read ∨ (∃ p0 p1 p2 p3, i = .write p0 p1 p2 p3) ∨
    (i.cmdByte ≠ Config.readCmd ∧ i.cmdByte ≠ Config.writeCmd ∧ undefInstr i.cmdByte = i) := by
  by_cases hread : i.cmdByte = Config.readCmd
  · exact .inl ((eq_read_iff_cmdByte hw).mpr hread)
  by_cases hwrite : i.cmdByte = Config.writeCmd
  · exact .inr (.inl ((eq_write_iff_cmdByte hw).mpr hwrite))
  · exact .inr (.inr ⟨hread, hwrite, undefInstr_cmdByte hw hread hwrite⟩)

/-- An UNDEF row has no payload (R84, R86). -/
@[simp] theorem payload_undefInstr (c : Byte) : (undefInstr c).payload = [] := by
  unfold undefInstr
  repeat' split
  all_goals rfl

/-- Only the command byte and the payload are left of a frame once its marker is read (R82). -/
theorem decode_encode_append (i : Instr) (rest : List Byte) :
    decode (encode i ++ rest) = decodeCommand i.cmdByte (i.payload ++ rest) :=
  rfl

/-- The command byte with the payload behind it gives a well-formed instruction back (R88, R127). -/
theorem decodeCommand_cmdByte {i : Instr} (hw : i.wellFormed = true) (rest : List Byte) :
    decodeCommand i.cmdByte (i.payload ++ rest) = .ok (i, rest) := by
  obtain rfl | ⟨p0, p1, p2, p3, rfl⟩ | ⟨hread, hwrite, hundef⟩ := wellFormed_cases hw
  · exact decodeCommand_read rest
  · exact decodeCommand_write p0 p1 p2 p3 rest
  · have hpayload : i.payload = [] := hundef ▸ payload_undefInstr _
    rw [decodeCommand_undef _ hread hwrite, hundef, hpayload, List.nil_append]

/-- Settles O4: the marker is read off and the command byte, with the payload behind it, gives the instruction back. -/
theorem decodeOfEncodeIsTheInstruction : Obligations.DecodeOfEncodeIsTheInstruction := by
  unfold Obligations.DecodeOfEncodeIsTheInstruction
  intro i rest hw
  rw [decode_encode_append, decodeCommand_cmdByte hw]

/-! ### What is decoded and what is rejected -/

/-- A command that decodes is the instruction's own command byte and payload, and what follows (R86). -/
theorem decodeCommand_bytes {c : Byte} {bs after : List Byte} {i : Instr} (h : decodeCommand c bs = .ok (i, after)) :
    bs = i.payload ++ after := by
  obtain ⟨-, rfl, rfl⟩ | ⟨-, p0, p1, p2, p3, rfl, rfl⟩ | ⟨-, -, rfl, rfl⟩ := decodeCommand_cases h
  · rfl
  · rfl
  · rw [payload_undefInstr, List.nil_append]

/-- A WRITE without its whole payload is rejected (R84, R86). -/
theorem decodeCommand_write_short {bs : List Byte} (h : bs.length < 4) :
    decodeCommand Config.writeCmd bs = .error .payloadIncomplete := by
  match bs with
  | [] | [_] | [_, _] | [_, _, _] => rfl
  | _ :: _ :: _ :: _ :: _ => simp at h; omega

/-- A command is rejected only for want of its payload, a WRITE with fewer than four bytes behind it (R84, R86). -/
theorem decodeCommand_eq_error {c : Byte} {bs : List Byte} {e : Reject} :
    decodeCommand c bs = .error e ↔ e = .payloadIncomplete ∧ c = Config.writeCmd ∧ bs.length < 4 := by
  by_cases hread : c = Config.readCmd
  · subst hread
    simp [writeCmd_ne_readCmd.symm]
  by_cases hwrite : c = Config.writeCmd
  · subst hwrite
    by_cases hlen : bs.length < 4
    · simp [decodeCommand_write_short hlen, hlen, eq_comm]
    · obtain ⟨p0, p1, p2, p3, after, rfl⟩ := exists_four (Nat.not_lt.mp hlen)
      simp
  · simp [decodeCommand_undef bs hread hwrite, hwrite]

/-- The three ways the decoder can go (R82, R86): too few bytes, another marker, or the command behind the marker. -/
theorem decode_cases (bytes : List Byte) :
    (bytes.length < 5 ∧ decode bytes = .error .tooShort) ∨
    (5 ≤ bytes.length ∧ bytes.take 4 ≠ Config.marker ∧ decode bytes = .error .badMarker) ∨
    (∃ c rest, bytes = Config.marker ++ c :: rest ∧ decode bytes = decodeCommand c rest) := by
  match bytes with
  | [] | [_] | [_, _] | [_, _, _] | [_, _, _, _] => exact .inl ⟨by simp, rfl⟩
  | m0 :: m1 :: m2 :: m3 :: c :: rest =>
    by_cases hm : [m0, m1, m2, m3] = Config.marker
    · exact .inr (.inr ⟨c, rest, by rw [← hm]; rfl, by rw [decode, if_pos hm]⟩)
    · exact .inr (.inl ⟨by simp, hm, by rw [decode, if_neg hm]⟩)

/-- Settles O5: only the marker with a command behind it decodes, and the command's bytes are the rest of the frame. -/
theorem decodedBytesAreTheFrame : Obligations.DecodedBytesAreTheFrame := by
  unfold Obligations.DecodedBytesAreTheFrame
  intro bytes rest i h
  obtain ⟨-, hshort⟩ | ⟨-, -, hbad⟩ | ⟨c, tail, rfl, hcommand⟩ := decode_cases bytes
  · rw [hshort] at h
    cases h
  · rw [hbad] at h
    cases h
  · rw [hcommand] at h
    obtain ⟨hw, rfl⟩ := decodeCommand_fits h
    refine ⟨hw, ?_⟩
    rw [decodeCommand_bytes h, encode, List.append_assoc, List.cons_append]

/-- Settles O3: the formats of READ and WRITE by the decoder's own equations, every other command byte by its UNDEF row. -/
theorem formatsDecodeForEveryOperand : Obligations.FormatsDecodeForEveryOperand := by
  unfold Obligations.FormatsDecodeForEveryOperand
  refine ⟨decodeCommand_read, decodeCommand_write, fun k hread hwrite => ?_⟩
  obtain ⟨hwf, hcmd⟩ := undefInstr_fits k hread hwrite
  exact ⟨undefInstr k, hwf, hcmd, two_le_rowNumber_undefInstr k, fun rest => decodeCommand_undef rest hread hwrite⟩

/-- Settles O6: each of the decoder's three ways has one reason, and the command behind the marker is rejected only as a
WRITE without its whole payload. -/
theorem nonFramesAreRejectedByReason : Obligations.NonFramesAreRejectedByReason := by
  unfold Obligations.NonFramesAreRejectedByReason
  refine ⟨fun bytes => ?short, fun bytes => ?marker, fun bytes => ?payload⟩
  case short =>
    obtain ⟨hlen, h⟩ | ⟨hlen, -, h⟩ | ⟨c, tail, rfl, h⟩ := decode_cases bytes
    · simp [h, hlen]
    · simp [h, hlen]
    · rw [h, decodeCommand_eq_error]
      simp [Config.marker]
  case marker =>
    obtain ⟨hlen, h⟩ | ⟨hlen, hm, h⟩ | ⟨c, tail, rfl, h⟩ := decode_cases bytes
    · simp [h, hlen]
    · exact iff_of_true h ⟨hlen, hm⟩
    · rw [h, decodeCommand_eq_error]
      simp [Config.marker]
  case payload =>
    constructor
    · intro h
      obtain ⟨-, hshort⟩ | ⟨-, -, hbad⟩ | ⟨c, tail, rfl, hcommand⟩ := decode_cases bytes
      · rw [hshort] at h
        cases h
      · rw [hbad] at h
        cases h
      · obtain ⟨-, rfl, hlen⟩ := decodeCommand_eq_error.mp (hcommand ▸ h)
        exact ⟨tail, rfl, hlen⟩
    · rintro ⟨tail, rfl, hlen⟩
      exact decodeCommand_eq_error.mpr ⟨rfl, rfl, hlen⟩

/-- Settles O1: the decoder's equations on the ten frames of R85 and R96. -/
theorem writtenOutFramesDecode : Obligations.WrittenOutFramesDecode :=
  ⟨rfl, rfl, rfl, rfl, rfl, rfl, rfl, rfl, rfl, rfl⟩

end Sys2Proof.Machine
end

section
/-! The Consumer's enabled steps as actions, and what a step of any agent can do: the inversion that the statements about
steps are derived from, from every state. -/

namespace Sys2Proof.Machine

/-! ### The actions -/

/-- The Consumer's enabled steps: MATCH, RESYNC, CMDFETCH, READ-TX before the last byte, READ-TX of the last,
WRITE-CAPTURE and UNDEF (R124 to R126, R141, R142, R144). -/
inductive Action where
  | matchMarker
  | resync
  | fetch (c : Byte)
  | send
  | sendLast
  | capture (v : StoredValue)
  | undef

namespace Action

/-- The state an action leaves. -/
def apply (a : Action) (s : State) : State :=
  match a with
  | matchMarker => (s.setR (s.r + 4)).setPs .markerFound
  | resync => s.setR (s.r + 1)
  | fetch c => ((s.setR (s.r + 1)).setCmd c).setPs .dispatching
  | send => (emit (s.sv.byte s.txi) s).setTxi (s.txi + 1)
  | sendLast => finishCommand ((emit (s.sv.byte s.txi) s).setTxi 0)
  | capture v => finishCommand ((s.setSv v).setR (s.r + 4))
  | undef => finishCommand s

/-- The condition under which an awake Consumer takes an action (R123 to R127). -/
def Enabled (a : Action) (s : State) : Prop :=
  match a with
  | matchMarker => s.ps = .idle ∧ 4 < occupiedLength s ∧ oldest 4 s = .next Config.marker
  | resync => s.ps = .idle ∧ 4 < occupiedLength s ∧ ∃ bytes, oldest 4 s = .next bytes ∧ bytes ≠ Config.marker
  | fetch c => s.ps = .markerFound ∧ peek 0 s = .next c
  | send => s.ps = .dispatching ∧ s.cmd = Config.readCmd ∧ s.env.txReady = true ∧ s.txi ≠ 3
  | sendLast => s.ps = .dispatching ∧ s.cmd = Config.readCmd ∧ s.env.txReady = true ∧ s.txi = 3
  | capture v => s.ps = .dispatching ∧ s.cmd = Config.writeCmd ∧ 4 ≤ occupiedLength s ∧ oldest 4 s = .next v.bytes
  | undef => s.ps = .dispatching ∧ s.cmd ≠ Config.readCmd ∧ s.cmd ≠ Config.writeCmd

/-- The bytes an action transmits (R141). -/
def sent (a : Action) (s : State) : List Byte :=
  match a with
  | send | sendLast => [s.sv.byte s.txi]
  | matchMarker | resync | fetch _ | capture _ | undef => []

/-- How many bytes an action consumes (R124 to R126, R142). -/
def consumed : Action → Nat
  | matchMarker | capture _ => 4
  | resync | fetch _ => 1
  | send | sendLast | undef => 0

@[simp] theorem apply_buf (a : Action) (s : State) : (a.apply s).buf = s.buf := by cases a <;> rfl
@[simp] theorem apply_w (a : Action) (s : State) : (a.apply s).w = s.w := by cases a <;> rfl
@[simp] theorem apply_sched (a : Action) (s : State) : (a.apply s).env.sched = s.env.sched := by cases a <;> rfl

theorem apply_r (a : Action) (s : State) : (a.apply s).r = s.r + BitVec.ofNat 8 a.consumed := by
  cases a <;> simp [apply, consumed]

/-- An enabled action consumes no more than is occupied (R104). -/
theorem Enabled.consumed_le {a : Action} {s : State} (h : a.Enabled s) : a.consumed ≤ occupiedLength s := by
  cases a with
  | matchMarker =>
    obtain ⟨-, hocc, -⟩ := h
    exact hocc.le
  | resync =>
    obtain ⟨-, hocc, -⟩ := h
    exact Nat.lt_of_le_of_lt (by decide) hocc
  | fetch c =>
    obtain ⟨-, hc⟩ := h
    exact (peek_eq_next hc).1
  | capture v =>
    obtain ⟨-, -, hocc, -⟩ := h
    exact hocc
  | send | sendLast | undef => exact Nat.zero_le _

/-- The transmit stream gains the bytes an action transmits and no other. -/
theorem apply_tx (a : Action) (s : State) : (a.apply s).env.tx = s.env.tx ++ a.sent s := by
  cases a <;> simp [apply, sent]

theorem apply_setSched (a : Action) (s : State) (l : List Turn) :
    a.apply (s.setSched l) = (a.apply s).setSched l := by
  cases a <;> rfl

theorem enabled_setSched (a : Action) (s : State) (l : List Turn) : a.Enabled (s.setSched l) = a.Enabled s := by
  cases a <;> rfl

end Action

/-! ### The Consumer's step -/

/-- As many bytes are peeked as were asked for. -/
theorem length_of_peekFrom {s : State} {off n : Nat} {bytes : List Byte} (h : peekFrom s off n = .next bytes) :
    bytes.length = n := by
  induction n generalizing off bytes with
  | zero => cases h; rfl
  | succ n ih =>
    obtain ⟨b, -, h⟩ := andThen_eq_next h
    obtain ⟨bs, hbs, h⟩ := andThen_eq_next h
    cases h
    rw [List.length_cons, ih hbs]

/-- The four oldest bytes make up a stored value (R26, R142). -/
theorem oldest_four_eq_next {s : State} {bytes : List Byte} (h : oldest 4 s = .next bytes) :
    ∃ v : StoredValue, bytes = v.bytes := by
  match bytes, length_of_peekFrom h with
  | [p0, p1, p2, p3], _ => exact ⟨⟨p0, p1, p2, p3⟩, rfl⟩

/-- READ-TX (R141): one byte of the reply with the channel ready, else a hold. -/
theorem readTx_eq (s : State) :
    readTx s = .next (if s.env.txReady then if s.txi = 3 then Action.sendLast.apply s else Action.send.apply s else s) := by
  by_cases hready : s.env.txReady = true <;> by_cases htxi : s.txi = 3 <;>
    simp [readTx, channelReady, hold, hready, htxi, Action.apply]

/-- An awake Consumer takes the action that is enabled. -/
theorem consumerStep_of_enabled {s : State} {a : Action} (hp : s.pw = .active) (ha : a.Enabled s) :
    consumerStep s = .next (a.apply s) := by
  cases a with
  | matchMarker =>
    obtain ⟨hs, hocc, hm⟩ := ha
    rw [consumerStep_idle hp hs, idleStep_of_oldest hocc hm, if_pos rfl]
    exact matchStep_eq hocc.le
  | resync =>
    obtain ⟨hs, hocc, bytes, hbytes, hm⟩ := ha
    rw [consumerStep_idle hp hs, idleStep_of_oldest hocc hbytes, if_neg hm]
    exact resyncStep_eq (by omega)
  | fetch c =>
    obtain ⟨hs, hc⟩ := ha
    obtain ⟨hocc, hread⟩ := peek_eq_next hc
    rw [consumerStep_markerFound hp hs]
    exact cmdFetch_of_read hocc (by simpa using hread)
  | send =>
    obtain ⟨hs, hc, hready, htxi⟩ := ha
    rw [consumerStep_dispatching hp hs, dispatchStep_read hc, execRead_eq hs hc hp, readTx_eq, if_pos hready, if_neg htxi]
  | sendLast =>
    obtain ⟨hs, hc, hready, htxi⟩ := ha
    rw [consumerStep_dispatching hp hs, dispatchStep_read hc, execRead_eq hs hc hp, readTx_eq, if_pos hready, if_pos htxi]
  | capture v =>
    obtain ⟨hs, hc, hocc, hbytes⟩ := ha
    rw [consumerStep_dispatching hp hs, dispatchStep_write_of_oldest hc hocc hbytes]
    exact execWrite_eq _ _ _ _ hs hc hp hocc
  | undef =>
    obtain ⟨hs, hread, hwrite⟩ := ha
    rw [consumerStep_dispatching hp hs, dispatchStep_undef hread hwrite]
    exact undefStep_eq hs hread hwrite hp

/-- A Consumer that sleeps or holds changes nothing (R16, R122, R141, R143, R162). -/
theorem consumerStep_of_not_enabled {s : State} (h : consumerEnabled s = false) : consumerStep s = .next s := by
  cases hp : s.pw with
  | asleep => exact consumerStep_asleep hp
  | active =>
    cases hs : s.ps with
    | idle =>
      rw [consumerStep_idle hp hs]
      exact idleStep_hold (by simpa [consumerEnabled, hp, hs, ← Bool.not_eq_true] using h)
    | markerFound =>
      rw [consumerStep_markerFound hp hs]
      exact cmdFetch_hold (by simpa [consumerEnabled, hp, hs] using h)
    | dispatching =>
      rw [consumerStep_dispatching hp hs]
      by_cases hread : s.cmd = Config.readCmd
      · have hready : s.env.txReady = false := by simpa [consumerEnabled, hp, hs, isRead, hread, channelReady] using h
        rw [dispatchStep_read hread, execRead_eq hs hread hp, readTx_eq, hready, if_neg Bool.false_ne_true]
      by_cases hwrite : s.cmd = Config.writeCmd
      · have hocc : occupiedLength s < 4 := by
          simpa [consumerEnabled, hp, hs, isRead, isWrite, hwrite, ← Bool.not_eq_true] using h
        exact dispatchStep_hold hwrite hocc
      · simp [consumerEnabled, hp, hs, isRead, isWrite, hread, hwrite] at h

/-- An enabled action is an enabled step. -/
theorem consumerEnabled_of_enabled {s : State} {a : Action} (hp : s.pw = .active) (ha : a.Enabled s) :
    consumerEnabled s = true := by
  cases a with
  | matchMarker =>
    obtain ⟨hs, hocc, -⟩ := ha
    simp [consumerEnabled, hp, hs, hocc]
  | resync =>
    obtain ⟨hs, hocc, -⟩ := ha
    simp [consumerEnabled, hp, hs, hocc]
  | fetch c =>
    obtain ⟨hs, hc⟩ := ha
    obtain ⟨hocc, -⟩ := peek_eq_next hc
    simpa [consumerEnabled, hp, hs] using Nat.succ_le_of_lt hocc
  | send | sendLast =>
    obtain ⟨hs, hc, hready, -⟩ := ha
    simp [consumerEnabled, hp, hs, hc, isRead, channelReady, hready]
  | capture v =>
    obtain ⟨hs, hc, hocc, -⟩ := ha
    simp [consumerEnabled, hp, hs, hc, isRead, isWrite, hocc]
  | undef =>
    obtain ⟨hs, hread, hwrite⟩ := ha
    simp [consumerEnabled, hp, hs, isRead, isWrite, hread, hwrite]

/-- An enabled step that answers is an enabled action. -/
theorem exists_action_of_enabled {s t : State} (he : consumerEnabled s = true) (h : consumerStep s = .next t) :
    s.pw = .active ∧ ∃ a : Action, a.Enabled s := by
  cases hp : s.pw with
  | asleep => simp [consumerEnabled, hp] at he
  | active =>
    refine ⟨rfl, ?_⟩
    cases hs : s.ps with
    | idle =>
      have hocc : 4 < occupiedLength s := by simpa [consumerEnabled, hp, hs] using he
      rw [consumerStep_idle hp hs, idleStep, if_pos ((scanPossible_iff s).mpr hocc)] at h
      obtain ⟨bytes, hbytes, -⟩ := andThen_eq_next h
      by_cases hm : bytes = Config.marker
      · exact ⟨.matchMarker, hs, hocc, hm ▸ hbytes⟩
      · exact ⟨.resync, hs, hocc, bytes, hbytes, hm⟩
    | markerFound =>
      have hocc : 1 ≤ occupiedLength s := by simpa [consumerEnabled, hp, hs] using he
      rw [consumerStep_markerFound hp hs, cmdFetch, pop, await_of_le _ hocc] at h
      obtain ⟨c, hc, -⟩ := andThen_eq_next h
      exact ⟨.fetch c, hs, hc⟩
    | dispatching =>
      by_cases hread : s.cmd = Config.readCmd
      · have hready : s.env.txReady = true := by simpa [consumerEnabled, hp, hs, isRead, hread, channelReady] using he
        by_cases htxi : s.txi = 3
        · exact ⟨.sendLast, hs, hread, hready, htxi⟩
        · exact ⟨.send, hs, hread, hready, htxi⟩
      by_cases hwrite : s.cmd = Config.writeCmd
      · have hocc : 4 ≤ occupiedLength s := by simpa [consumerEnabled, hp, hs, isRead, isWrite, hwrite] using he
        rw [consumerStep_dispatching hp hs, dispatchStep, operandBytes_of_payload hwrite hocc] at h
        obtain ⟨bytes, hbytes, -⟩ := andThen_eq_next h
        obtain ⟨v, rfl⟩ := oldest_four_eq_next hbytes
        exact ⟨.capture v, hs, hwrite, hocc, hbytes⟩
      · exact ⟨.undef, hs, hread, hwrite⟩

/-- Everything the Consumer's step can answer, from every state: a hold, or the action that is enabled. -/
theorem consumerStep_eq_next_iff {s t : State} :
    consumerStep s = .next t ↔
      (consumerEnabled s = false ∧ t = s) ∨ (s.pw = .active ∧ ∃ a : Action, a.Enabled s ∧ t = a.apply s) := by
  constructor
  · intro h
    cases he : consumerEnabled s with
    | false =>
      rw [consumerStep_of_not_enabled he] at h
      cases h
      exact .inl ⟨rfl, rfl⟩
    | true =>
      obtain ⟨hp, a, ha⟩ := exists_action_of_enabled he h
      rw [consumerStep_of_enabled hp ha] at h
      cases h
      exact .inr ⟨hp, a, ha, rfl⟩
  · rintro (⟨he, rfl⟩ | ⟨hp, a, ha, rfl⟩)
    · exact consumerStep_of_not_enabled he
    · exact consumerStep_of_enabled hp ha

/-! ### The step of any agent -/

/-- The turns to come after an action of the Consumer: a `RUN` stays (R94). -/
def turnsLeft (s : State) : List Turn :=
  if nextTurn s = .run then .run :: s.env.sched.tail else s.env.sched.tail

/-- Everything a step can do: the handlers' steps, the Environment's, and the Consumer's hold or action. -/
inductive StepsTo (s : State) : State → Prop
  | rx {b : Byte} (turn : nextTurn s = .rx b) : StepsTo s (onRx b (afterTurn s))
  | wakePin (turn : nextTurn s = .wakePin) : StepsTo s (onWakePin (afterTurn s))
  | txReady {level : Bool} (turn : nextTurn s = .txReady level) : StepsTo s ((afterTurn s).setTxReady level)
  | reset (turn : nextTurn s = .reset) : StepsTo s (onReset (afterTurn s))
  | hold (turn : nextTurn s = .consumer ∨ nextTurn s = .run) (rests : consumerEnabled s = false) :
    StepsTo s (afterTurn s)
  | act {a : Action} (turn : nextTurn s = .consumer ∨ nextTurn s = .run) (awake : s.pw = .active)
    (enabled : a.Enabled s) : StepsTo s ((a.apply s).setSched (turnsLeft s))

/-- A step in which the Consumer rests only takes the turn off. -/
theorem step_of_not_enabled {s : State} (turn : nextTurn s = .consumer ∨ nextTurn s = .run)
    (h : consumerEnabled s = false) : step s = .next (afterTurn s) := by
  have hafter : consumerEnabled (afterTurn s) = false := h
  rw [step_eq_takeTurn]
  rcases turn with turn | turn <;> rw [turn]
  · exact consumerStep_of_not_enabled hafter
  · simp [takeTurn, runTurn, hafter]

/-- A step in which the Consumer is enabled is the Consumer's, on the turns that are left. -/
theorem step_of_consumerEnabled {s : State} (turn : nextTurn s = .consumer ∨ nextTurn s = .run)
    (h : consumerEnabled s = true) : step s = consumerStep (s.setSched (turnsLeft s)) := by
  have hafter : consumerEnabled (afterTurn s) = true := h
  rw [step_eq_takeTurn]
  rcases turn with turn | turn
  · simp [turn, takeTurn, turnsLeft, afterTurn]
  · simp only [turn, takeTurn, runTurn, hafter, turnsLeft, if_true]
    rfl

/-- A step in which the Consumer acts. -/
theorem step_of_enabled {s : State} {a : Action} (turn : nextTurn s = .consumer ∨ nextTurn s = .run)
    (hp : s.pw = .active) (ha : a.Enabled s) : step s = .next ((a.apply s).setSched (turnsLeft s)) := by
  rw [step_of_consumerEnabled turn (consumerEnabled_of_enabled hp ha), ← a.apply_setSched]
  exact consumerStep_of_enabled hp (a.enabled_setSched s _ ▸ ha)

/-- A step of the Consumer that answers is a hold or an action. -/
theorem stepsTo_of_consumer {s t : State} (turn : nextTurn s = .consumer ∨ nextTurn s = .run) (h : step s = .next t) :
    StepsTo s t := by
  cases he : consumerEnabled s with
  | false =>
    rw [step_of_not_enabled turn he] at h
    cases h
    exact .hold turn he
  | true =>
    have hstep := step_of_consumerEnabled turn he
    obtain ⟨hp, a, ha⟩ := exists_action_of_enabled (s := s.setSched (turnsLeft s)) he (hstep ▸ h)
    rw [a.enabled_setSched] at ha
    rw [step_of_enabled turn hp ha] at h
    cases h
    exact .act turn hp ha

/-- A step answers exactly what `StepsTo` lists. -/
theorem step_eq_next_iff {s t : State} : step s = .next t ↔ StepsTo s t := by
  constructor
  · intro h
    cases turn : nextTurn s with
    | rx b => rw [step_eq_takeTurn, turn] at h; cases h; exact .rx turn
    | wakePin => rw [step_eq_takeTurn, turn] at h; cases h; exact .wakePin turn
    | txReady level => rw [step_eq_takeTurn, turn] at h; cases h; exact .txReady turn
    | reset => rw [step_eq_takeTurn, turn] at h; cases h; exact .reset turn
    | consumer => exact stepsTo_of_consumer (.inl turn) h
    | run => exact stepsTo_of_consumer (.inr turn) h
  · intro h
    cases h with
    | rx turn | wakePin turn | txReady turn | reset turn => rw [step_eq_takeTurn, turn]; rfl
    | hold turn rests => exact step_of_not_enabled turn rests
    | act turn awake enabled => exact step_of_enabled turn awake enabled

end Sys2Proof.Machine
end

section
/-! Proofs about the whole machine: every step keeps the invariants. -/

namespace Sys2Proof.Machine

/-- The reset state satisfies the invariants, whatever the Environment's side (R38, R39). -/
theorem invariants_reset (e : Env) : Invariants { State.reset with env := e } :=
  have hi : Invariants State.reset := ⟨by decide, by decide, by decide, by decide, by decide, by decide⟩
  hi.congr_env rfl

/-- Settles O11: each of the invariants by evaluation. -/
theorem invariantsHoldAtReset : Obligations.InvariantsHoldAtReset :=
  invariants_reset State.reset.env

/-- A state that differs by `n` consumed bytes, and in its control state, keeps the invariants that its control state
does not break. -/
theorem Invariants.of_consumed {s t : State} (hi : Invariants s) {n : Nat} (hn : n ≤ occupiedLength s)
    (hbuf : t.buf = s.buf) (hw : t.w = s.w) (hr : t.r = s.r + BitVec.ofNat 8 n)
    (hfetched : t.ps = .markerFound → n + 1 ≤ occupiedLength s) (hasleep : t.pw = .asleep → t.ps = .idle)
    (htxi : t.txi ≠ 0 → t.ps = .dispatching ∧ t.cmd = Config.readCmd) : Invariants t := by
  have hocc : occupiedLength t = occupiedLength s - n :=
    (occupiedLength_congr (s := s.setR (s.r + BitVec.ofNat 8 n)) hw hr).trans (occupied_setR hn)
  have hwindow : window t = window (s.setR (s.r + BitVec.ofNat 8 n)) := window_congr hbuf hw hr
  have hbound := hi.bound
  refine ⟨by omega, written_iff.mpr (hwindow ▸ hi.written_consume hn), fun h => ?_, hasleep, htxi, hbuf ▸ hi.bufWf⟩
  have := hfetched h
  omega

/-- Outside a reply the reply index is 0 (R39 I5). -/
theorem Invariants.txi_eq_zero {s : State} (hi : Invariants s) (h : s.ps ≠ .dispatching ∨ s.cmd ≠ Config.readCmd) :
    s.txi = 0 := by
  by_contra htxi
  obtain ⟨hs, hc⟩ := hi.txiZero htxi
  exact h.elim (· hs) (· hc)

/-- Every action of an awake Consumer keeps the invariants: MATCH leaves the command byte behind the marker, and a
command ends in Idle with the reply index 0. -/
theorem Invariants.apply {s : State} (hi : Invariants s) (hp : s.pw = .active) {a : Action} (ha : a.Enabled s) :
    Invariants (a.apply s) := by
  refine hi.of_consumed ha.consumed_le (a.apply_buf s) (a.apply_w s) (a.apply_r s) ?fetched ?asleepIdle ?txiZero
  case fetched =>
    cases a with
    | matchMarker =>
      obtain ⟨-, hocc, -⟩ := ha
      exact fun _ => hocc
    | resync => simp [Action.apply, ha.1]
    | send => simp [Action.apply, ha.1]
    | fetch | sendLast | capture | undef => simp [Action.apply]
  case asleepIdle =>
    cases a with
    | matchMarker | resync | fetch | send => simp [Action.apply, hp]
    | sendLast | capture | undef => simp [Action.apply]
  case txiZero =>
    cases a with
    | matchMarker | resync | fetch =>
      have htxi := hi.txi_eq_zero (by simp [ha.1])
      simp [Action.apply, htxi]
    | send =>
      obtain ⟨hs, hc, -, -⟩ := ha
      simp [Action.apply, hs, hc]
    | sendLast => simp [Action.apply]
    | capture | undef =>
      obtain ⟨-, hc, -⟩ := ha
      have htxi := hi.txi_eq_zero (by simp [hc])
      simp [Action.apply, htxi]

/-- The invariants after every step that can be taken from a state that satisfies them. -/
theorem Invariants.stepsTo {s t : State} (hi : Invariants s) (h : StepsTo s t) : Invariants t := by
  have hafter : Invariants (afterTurn s) := hi.setSched _
  cases h with
  | rx => exact (hafter.push _).wake
  | wakePin => exact hafter.wake
  | txReady => exact hafter.setTxReady _
  | reset => exact invariants_reset _
  | hold => exact hafter
  | act _ awake enabled => exact (hi.apply awake enabled).setSched _

/-- Settles O52: the step is one of those that can be taken, and each keeps the invariants. -/
theorem everyStepKeepsTheInvariants : Obligations.EveryStepKeepsTheInvariants := by
  unfold Obligations.EveryStepKeepsTheInvariants
  intro s t hi h
  exact hi.stepsTo (step_eq_next_iff.mp h)

end Sys2Proof.Machine
end

section
/-! Proofs about the whole machine: the block refines a bounded queue. -/

namespace Sys2Proof.Machine

/-! ### The actions in terms of the queue -/

/-- Under the invariants the oldest bytes are the front of the queue (R103). -/
theorem Invariants.oldest_eq_next_iff {s : State} (hi : Invariants s) {n : Nat} (hn : n ≤ occupiedLength s)
    {bytes : List Byte} : oldest n s = .next bytes ↔ (queue s).take n = bytes := by
  rw [hi.oldest_eq hn, Host.Outcome.next.injEq]

/-- A peeked oldest byte is the head of the queue (R103). -/
theorem Invariants.head_queue_of_peek {s : State} (hi : Invariants s) {c : Byte} (h : peek 0 s = .next c) :
    (queue s).head? = some c := by
  obtain ⟨hocc, hread⟩ := peek_eq_next h
  rw [List.head?_eq_getElem?, ← hi.memRead_eq hocc, hread]

/-- A payload peeked for a capture is the front of the queue (R142). -/
theorem Invariants.queue_of_capture {s : State} (hi : Invariants s) {v : StoredValue} (ha : (Action.capture v).Enabled s) :
    (queue s).take 4 = v.bytes := by
  obtain ⟨-, -, hocc, hbytes⟩ := ha
  exact (hi.oldest_eq_next_iff hocc).mp hbytes

/-- An enabled action takes the bytes it consumes off the front of the queue. -/
theorem Invariants.queue_apply {s : State} (hi : Invariants s) {a : Action} (ha : a.Enabled s) :
    queue (a.apply s) = (queue s).drop a.consumed := by
  rw [← hi.queue_consume ha.consumed_le]
  exact queue_congr (a.apply_buf s) (a.apply_w s) (a.apply_r s)

/-! ### The simulation -/

/-- The abstract block's step is the turn at the head of the schedule, or the Consumer's (R18). -/
theorem abs_step_abstractView (s : State) :
    Abs.step (abstractView s) = Abs.turn (nextTurn s) (abstractView (afterTurn s)) := by
  obtain ⟨buf, w, r, sv, ps, cmd, txi, pw, sched, txReady, tx⟩ := s
  cases sched <;> rfl

/-- Under the invariants the abstract Consumer is enabled as the Consumer is (R122, R126, R141, R143, R162). -/
theorem Invariants.abs_enabled {s : State} (hi : Invariants s) : (abstractView s).enabled = consumerEnabled s := by
  have hlen := hi.queue_length
  rw [Bool.eq_iff_iff]
  cases hp : s.pw with
  | asleep => simp [Abs.enabled, consumerEnabled, abstractView, hp]
  | active =>
    cases hs : s.ps with
    | idle => simp [Abs.enabled, consumerEnabled, abstractView, hp, hs, hlen, Nat.lt_iff_add_one_le]
    | markerFound =>
      have hfetched := hi.fetched hs
      have hne : queue s ≠ [] := List.ne_nil_of_length_pos (by omega)
      simp [Abs.enabled, consumerEnabled, abstractView, hp, hs, hne, hfetched]
    | dispatching =>
      by_cases hread : s.cmd = 1#8
      · simp [Abs.enabled, consumerEnabled, abstractView, hp, hs, hread, isRead, channelReady, Config.readCmd]
      by_cases hwrite : s.cmd = 2#8
      · simp [Abs.enabled, consumerEnabled, abstractView, hp, hs, hlen, hwrite, isRead, isWrite, Config.readCmd,
          Config.writeCmd]
      · simp [Abs.enabled, consumerEnabled, abstractView, hp, hs, hread, hwrite, isRead, isWrite, Config.readCmd,
          Config.writeCmd]

/-- The abstract Consumer replies to a READ (R141). -/
theorem Abs.work_read {a : Abs} (hs : a.ps = .dispatching) (hc : a.cmd = 1) : a.work = a.reply := by
  simp only [Abs.work, hs, hc, if_true]

/-- The abstract Consumer captures the payload of a WRITE (R142). -/
theorem Abs.work_write {a : Abs} {p0 p1 p2 p3 : Byte} {rest : List Byte} (hs : a.ps = .dispatching) (hc : a.cmd = 2)
    (hq : a.queue = p0 :: p1 :: p2 :: p3 :: rest) :
    a.work = Abs.finish { a with sv := ⟨p0, p1, p2, p3⟩, queue := rest } := by
  have hne : (2 : Byte) ≠ 1 := by decide
  simp only [Abs.work, hs, hc, hq, hne, if_true, if_false]

/-- The abstract Consumer only ends an UNDEF (R144). -/
theorem Abs.work_undef {a : Abs} (hs : a.ps = .dispatching) (hread : a.cmd ≠ 1) (hwrite : a.cmd ≠ 2) :
    a.work = a.finish := by
  simp only [Abs.work, hs, hread, hwrite, if_false]

/-- Every enabled action is the abstract Consumer's work. -/
theorem Invariants.abstractView_apply {s : State} (hi : Invariants s) {a : Action} (ha : a.Enabled s) :
    abstractView (a.apply s) = (abstractView s).work := by
  have hqueue := hi.queue_apply ha
  cases a with
  | matchMarker =>
    obtain ⟨hs, hocc, hm⟩ := ha
    have htake : (queue s).take 4 = [0xDE, 0xAD, 0xBE, 0xAF] := (hi.oldest_eq_next_iff hocc.le).mp hm
    simp only [abstractView, hqueue, Abs.work, hs, htake, if_true]
    rfl
  | resync =>
    obtain ⟨hs, hocc, bytes, hbytes, hm⟩ := ha
    have htake : (queue s).take 4 ≠ [0xDE, 0xAD, 0xBE, 0xAF] := (hi.oldest_eq_next_iff hocc.le).mp hbytes ▸ hm
    simp only [abstractView, hqueue, Abs.work, hs, htake, if_false]
    rw [← hs]
    rfl
  | fetch c =>
    obtain ⟨hs, hc⟩ := ha
    have hhead : (queue s).headD 0 = c := by rw [List.headD_eq_head?_getD, hi.head_queue_of_peek hc, Option.getD_some]
    simp only [abstractView, hqueue, Abs.work, hs, hhead]
    rfl
  | send =>
    obtain ⟨hs, hc, -, htxi⟩ := ha
    have htxi' : (abstractView s).txi ≠ 3 := htxi
    rw [Abs.work_read hs hc, Abs.reply, if_neg htxi']
    rfl
  | sendLast =>
    obtain ⟨hs, hc, -, htxi⟩ := ha
    have htxi' : (abstractView s).txi = 3 := htxi
    rw [Abs.work_read hs hc, Abs.reply, if_pos htxi']
    rfl
  | capture v =>
    obtain ⟨hs, hc, hocc, hbytes⟩ := ha
    obtain ⟨p0, p1, p2, p3, rest, hq⟩ := exists_four (l := queue s) (hi.queue_length ▸ hocc)
    have hv : [p0, p1, p2, p3] = v.bytes := by
      rw [← (hi.oldest_eq_next_iff hocc).mp hbytes, hq]
      rfl
    obtain rfl : v = ⟨p0, p1, p2, p3⟩ := by
      cases v
      simpa [StoredValue.bytes, eq_comm] using hv
    rw [Abs.work_write hs hc hq, abstractView, hqueue, hq]
    rfl
  | undef =>
    obtain ⟨hs, hread, hwrite⟩ := ha
    rw [Abs.work_undef hs hread hwrite]
    rfl

/-- A received byte is the abstract block's (R101, R164, D5). -/
theorem Invariants.abstractView_onRx {s : State} (hi : Invariants s) (b : Byte) :
    abstractView (onRx b s) = (abstractView s).rx b := by
  have hqueue : queue (onRx b s) = if (queue s).length < 15 then queue s ++ [b] else queue s := by
    rw [hi.queue_length]
    exact queue_push b s
  rw [abstractView, hqueue]
  simp only [onRx, wake_sv, wake_ps, wake_cmd, wake_txi, wake_pw, wake_env, push_sv, push_ps, push_cmd, push_txi, push_env]
  rfl

/-- RESET is the abstract block's (R210, D16). -/
theorem abstractView_onReset (s : State) : abstractView (onReset s) = Abs.reset s.env := by
  have hqueue : queue (onReset s) = [] :=
    (queue_congr (s := State.reset) rfl rfl rfl).trans (by decide)
  rw [abstractView, hqueue]
  rfl

/-- In a turn of the Consumer, its own or a `RUN`, the abstract block holds where the Consumer does (R94, D22). -/
theorem Invariants.abs_turn_of_not_enabled {s : State} (hi : Invariants s) {turn : Turn}
    (hturn : turn = .consumer ∨ turn = .run) (he : consumerEnabled s = false) :
    Abs.turn turn (abstractView s) = abstractView s := by
  have hrests : (abstractView s).enabled = false := hi.abs_enabled.trans he
  rcases hturn with rfl | rfl <;> simp [Abs.turn, Abs.consumer, hrests]

/-- In a turn of the Consumer, its own or a `RUN`, the abstract block does the Consumer's action (R94, D22). -/
theorem Invariants.abs_turn_of_enabled {s : State} (hi : Invariants s) {a : Action}
    (hturn : nextTurn s = .consumer ∨ nextTurn s = .run) (hp : s.pw = .active) (ha : a.Enabled s) :
    Abs.turn (nextTurn s) (abstractView (afterTurn s)) = abstractView ((a.apply s).setSched (turnsLeft s)) := by
  have henabled : (abstractView (afterTurn s)).enabled = true :=
    (hi.setSched _).abs_enabled.trans (consumerEnabled_of_enabled hp ha)
  have hwork : abstractView ((a.apply s).setSched (turnsLeft s)) = (abstractView (s.setSched (turnsLeft s))).work := by
    rw [← a.apply_setSched]
    exact (hi.setSched _).abstractView_apply (a.enabled_setSched s _ ▸ ha)
  rw [hwork]
  rcases hturn with hturn | hturn
  · simp only [hturn, Abs.turn, Abs.consumer, henabled, turnsLeft, if_true]
    rfl
  · simp only [hturn, Abs.turn, henabled, turnsLeft, if_true]
    rfl

/-- Every step that can be taken is the abstract block's. -/
theorem Invariants.abstractView_stepsTo {s t : State} (hi : Invariants s) (h : StepsTo s t) :
    abstractView t = Abs.step (abstractView s) := by
  have hafter : Invariants (afterTurn s) := hi.setSched _
  rw [abs_step_abstractView]
  cases h with
  | rx turn => rw [turn]; exact hafter.abstractView_onRx _
  | wakePin turn | txReady turn => rw [turn]; rfl
  | reset turn => rw [turn]; exact abstractView_onReset _
  | hold turn rests => exact (hafter.abs_turn_of_not_enabled turn rests).symm
  | act turn awake enabled => exact (hi.abs_turn_of_enabled turn awake enabled).symm

/-- Settles O54: under the invariants the step answers a state, and each step that can be taken is simulated. -/
theorem blockRefinesABoundedQueue : Obligations.BlockRefinesABoundedQueue := by
  unfold Obligations.BlockRefinesABoundedQueue
  intro s hi
  obtain ⟨t, ht⟩ := noStepFaultsOrIsRefused s hi
  exact ⟨t, ht, hi.abstractView_stepsTo (step_eq_next_iff.mp ht)⟩

end Sys2Proof.Machine
end

section
/-! Proofs about steps: what a step but RESET's changes, read off the list of what a step can do. -/

namespace Sys2Proof.Machine

/-! ### Steps that leave the Consumer's state alone -/

/-- A step leaves the Consumer's state and the transmit stream alone, and puts no awake block to sleep. -/
structure KeepsConsumer (s t : State) : Prop where
  r : t.r = s.r
  sv : t.sv = s.sv
  ps : t.ps = s.ps
  cmd : t.cmd = s.cmd
  txi : t.txi = s.txi
  tx : t.env.tx = s.env.tx
  awake : s.pw = .active → t.pw = .active

/-- An action was taken in a turn of the Consumer. -/
structure Acts (s t : State) (a : Action) : Prop where
  turn : nextTurn s = .consumer ∨ nextTurn s = .run
  awake : s.pw = .active
  enabled : a.Enabled s
  next : t = (a.apply s).setSched (turnsLeft s)

/-- A step but RESET's is an action, or it leaves the Consumer's state alone (R189). -/
theorem keepsConsumer_or_acts {s t : State} (h : step s = .next t) (hreset : nextTurn s ≠ .reset) :
    KeepsConsumer s t ∨ ∃ a, Acts s t a := by
  cases step_eq_next_iff.mp h with
  | rx => exact .inl ⟨by simp [onRx, afterTurn], by simp [onRx, afterTurn], by simp [onRx, afterTurn],
      by simp [onRx, afterTurn], by simp [onRx, afterTurn], by simp [onRx, afterTurn], fun _ => rfl⟩
  | wakePin => exact .inl ⟨rfl, rfl, rfl, rfl, rfl, rfl, fun _ => rfl⟩
  | txReady => exact .inl ⟨rfl, rfl, rfl, rfl, rfl, rfl, id⟩
  | reset turn => exact absurd turn hreset
  | hold => exact .inl ⟨rfl, rfl, rfl, rfl, rfl, rfl, id⟩
  | act turn awake enabled => exact .inr ⟨_, turn, awake, enabled, rfl⟩

/-- Without a received byte a step but RESET's leaves the stored bytes and `W` alone (R22). -/
theorem step_keeps_buf_w {s t : State} (h : step s = .next t) (hreset : nextTurn s ≠ .reset)
    (hrx : ∀ b, nextTurn s ≠ .rx b) : t.buf = s.buf ∧ t.w = s.w := by
  cases step_eq_next_iff.mp h with
  | rx turn => exact absurd turn (hrx _)
  | reset turn => exact absurd turn hreset
  | wakePin | txReady | hold => exact ⟨rfl, rfl⟩
  | act => exact ⟨Action.apply_buf _ _, Action.apply_w _ _⟩

/-- Settles O49: a sleeping Consumer takes no action. -/
theorem sleepKeepsTheState : Obligations.SleepKeepsTheState := by
  unfold Obligations.SleepKeepsTheState
  intro s t hp h hreset
  obtain hkeeps | ⟨a, hacts⟩ := keepsConsumer_or_acts h hreset
  · exact ⟨hkeeps.r, hkeeps.sv, hkeeps.ps, hkeeps.cmd, hkeeps.txi, hkeeps.tx, step_keeps_buf_w h hreset⟩
  · simp [hacts.awake] at hp

/-- Settles O26: only MATCH, CMDFETCH and the three ends of a command change `PS`. -/
theorem parserChangesStateOnlyByTheTable : Obligations.ParserChangesStateOnlyByTheTable := by
  unfold Obligations.ParserChangesStateOnlyByTheTable
  intro s t hi h hreset hps
  obtain hkeeps | ⟨a, turn, awake, enabled, rfl⟩ := keepsConsumer_or_acts h hreset
  · exact absurd hkeeps.ps hps
  refine ⟨awake, turn, ?_⟩
  cases a with
  | matchMarker =>
    obtain ⟨hs, hocc, hm⟩ := enabled
    exact .inl ⟨hs, hocc, (hi.oldest_eq_next_iff hocc.le).mp hm, rfl, rfl⟩
  | resync => exact absurd rfl hps
  | fetch c =>
    obtain ⟨hs, hc⟩ := enabled
    exact .inr (.inl ⟨hs, rfl, hi.head_queue_of_peek hc, rfl⟩)
  | send => exact absurd rfl hps
  | sendLast =>
    obtain ⟨hs, hc, -, htxi⟩ := enabled
    refine .inr (.inr ⟨hs, rfl, rfl, .inl ⟨hc, htxi, ?_, rfl⟩⟩)
    simp [Action.apply, htxi, StoredValue.byte]
  | capture v =>
    have hv := hi.queue_of_capture enabled
    obtain ⟨hs, hc, hocc, -⟩ := enabled
    exact .inr (.inr ⟨hs, rfl, rfl, .inr (.inl ⟨hc, hocc, hv.symm, rfl⟩)⟩)
  | undef =>
    obtain ⟨hs, hread, hwrite⟩ := enabled
    exact .inr (.inr ⟨hs, rfl, rfl, .inr (.inr ⟨hread, hwrite, rfl⟩)⟩)

/-- Settles O50: only WRITE-CAPTURE changes `SV`. -/
theorem storedValueChangesOnlyInACapture : Obligations.StoredValueChangesOnlyInACapture := by
  unfold Obligations.StoredValueChangesOnlyInACapture
  intro s t hi h hreset hsv
  obtain hkeeps | ⟨a, turn, awake, enabled, rfl⟩ := keepsConsumer_or_acts h hreset
  · exact absurd hkeeps.sv hsv
  cases a with
  | capture v =>
    have hv := hi.queue_of_capture enabled
    obtain ⟨hs, hc, hocc, -⟩ := enabled
    exact ⟨awake, hs, hc, hocc, hv.symm, rfl, rfl⟩
  | matchMarker | resync | fetch | send | sendLast | undef => exact absurd rfl hsv

/-- `W` moves only in the push of a received byte that there is room for (R22). -/
theorem step_keeps_w_or_pushes {s t : State} (h : step s = .next t) (hreset : nextTurn s ≠ .reset) :
    t.w = s.w ∨ (t.w = s.w + 1 ∧ occupiedLength s < 15 ∧ ∃ b, nextTurn s = .rx b) := by
  by_cases hrx : ∃ b, nextTurn s = .rx b
  · obtain ⟨b, turn⟩ := hrx
    rw [step_eq_takeTurn, turn] at h
    cases h
    obtain ⟨hocc, hpush⟩ | ⟨-, hpush⟩ := push_cases b (afterTurn s)
    · exact .inr ⟨by rw [onRx, hpush]; rfl, hocc, b, turn⟩
    · exact .inl (by rw [onRx, hpush]; rfl)
  · exact .inl (step_keeps_buf_w h hreset (fun b turn => hrx ⟨b, turn⟩)).2

/-- Settles O51: the push moves `W`, and an action moves `R` by the bytes it consumes, none, one or four. -/
theorem countersMoveOnlyByTheirOperations : Obligations.CountersMoveOnlyByTheirOperations := by
  unfold Obligations.CountersMoveOnlyByTheirOperations
  intro s t hi h hreset
  refine ⟨step_keeps_w_or_pushes h hreset, ?_⟩
  obtain hkeeps | ⟨a, turn, awake, enabled, rfl⟩ := keepsConsumer_or_acts h hreset
  · exact .inl hkeeps.r
  have hle := enabled.consumed_le
  cases a with
  | matchMarker | capture => exact .inr ⟨turn, awake, .inr ⟨rfl, hle⟩⟩
  | resync | fetch => exact .inr ⟨turn, awake, .inl ⟨rfl, hle⟩⟩
  | send | sendLast | undef => exact .inl rfl

/-- The reply so far is one byte longer after the byte `TXI` names (R141). -/
theorem take_succ_txi (v : StoredValue) (i : Fin 4) :
    v.bytes.take i.val ++ [v.byte i] = v.bytes.take (i.val + 1) := by
  match i with
  | 0 | 1 | 2 | 3 => rfl

/-- The reply index does not wrap before the fourth byte (R29). -/
theorem val_txi_succ : ∀ i : Fin 4, i ≠ 3 → (i + 1).val = i.val + 1 := by
  decide

/-- Settles O30: while the READ is dispatched the only actions are the two of the reply, and any other turn leaves it as it
is. -/
theorem replyKeepsItsOrderUnderInterference : Obligations.ReplyKeepsItsOrderUnderInterference := by
  unfold Obligations.ReplyKeepsItsOrderUnderInterference
  intro s t before hs hc hp htx hreset h
  change s.env.tx = before ++ s.sv.bytes.take s.txi.val at htx
  have hsent : s.env.tx ++ [s.sv.byte s.txi] = before ++ s.sv.bytes.take (s.txi.val + 1) := by
    rw [htx, List.append_assoc, take_succ_txi]
  obtain hkeeps | ⟨a, turn, awake, enabled, rfl⟩ := keepsConsumer_or_acts h hreset
  · refine ⟨hkeeps.sv, .inl ⟨hkeeps.ps.trans hs, hkeeps.cmd.trans hc, hkeeps.awake hp, ?_⟩⟩
    rw [hkeeps.tx, hkeeps.txi]
    exact htx
  cases a with
  | send =>
    obtain ⟨-, -, -, htxi⟩ := enabled
    refine ⟨rfl, .inl ⟨hs, hc, hp, ?_⟩⟩
    change s.env.tx ++ [s.sv.byte s.txi] = before ++ s.sv.bytes.take (s.txi + 1).val
    rw [hsent, val_txi_succ s.txi htxi]
  | sendLast =>
    obtain ⟨-, -, -, htxi⟩ := enabled
    refine ⟨rfl, .inr ⟨rfl, rfl, rfl, ?_⟩⟩
    change s.env.tx ++ [s.sv.byte s.txi] = before ++ s.sv.bytes.take 4
    rw [hsent, htxi]
    rfl
  | matchMarker | resync | fetch => simp [Action.Enabled, hs] at enabled
  | capture v | undef => simp [Action.Enabled, hc, Config.readCmd, Config.writeCmd] at enabled

/-- No action leaves the state as it is. -/
theorem apply_ne {s : State} {a : Action} (ha : a.Enabled s) : a.apply s ≠ s := by
  intro heq
  cases a with
  | resync =>
    have hr : s.r + 1 = s.r := congrArg State.r heq
    simp at hr
  | send =>
    have htxi : s.txi + 1 = s.txi := congrArg State.txi heq
    simp at htxi
  | matchMarker | fetch | sendLast | capture | undef =>
    have hps := congrArg State.ps heq
    rw [ha.1] at hps
    cases hps

/-- Settles O58: a hold changes nothing, and every action changes the parser's state, the reply index or `R`. -/
theorem consumerChangesNothingExactlyWhenItHolds : Obligations.ConsumerChangesNothingExactlyWhenItHolds := by
  unfold Obligations.ConsumerChangesNothingExactlyWhenItHolds
  intro s _
  refine ⟨fun h => ?_, consumerStep_of_not_enabled⟩
  obtain ⟨he, -⟩ | ⟨-, a, ha, heq⟩ := consumerStep_eq_next_iff.mp h
  · exact he
  · exact absurd heq.symm (apply_ne ha)

end Sys2Proof.Machine
end

section
/-! Proofs of non-interference: what the block does not read. -/

namespace Sys2Proof.Machine

/-- A push commutes with an update that it neither reads nor overwrites. -/
theorem push_comm (b : Byte) {s : State} (u : State → State) (hocc : occupiedLength (u s) = occupiedLength s)
    (hstore : (memWrite (u s).w b (u s)).setW ((u s).w + 1) = u ((memWrite s.w b s).setW (s.w + 1))) :
    push b (u s) = u (push b s) := by
  by_cases h : occupiedLength s < 15
  · rw [push_admitted b h, push_admitted b (hocc ▸ h), hstore]
  · rw [push_dropped b h, push_dropped b (hocc ▸ h)]

/-! ### The transmit stream -/

namespace Action

theorem enabled_setTx (a : Action) (s : State) (l : List Byte) : a.Enabled (s.setTx l) = a.Enabled s := by
  cases a <;> rfl

/-- An action adds the bytes it transmits to whatever stream there is. -/
theorem apply_setTx (a : Action) (s : State) (l : List Byte) :
    a.apply (s.setTx l) = (a.apply s).setTx (l ++ a.sent s) := by
  cases a with
  | send | sendLast => rfl
  | matchMarker | resync | fetch | capture | undef =>
    rw [sent, List.append_nil]
    rfl

/-- An action transmits at most one byte (R141). -/
theorem length_sent_le (a : Action) (s : State) : (a.sent s).length ≤ 1 := by
  cases a <;> simp [sent]

end Action

/-- A step but RESET's adds at most one byte to the transmit stream, and does the same with any other stream (R37). -/
theorem StepsTo.setTx {s t : State} (h : StepsTo s t) (hreset : nextTurn s ≠ .reset) (l : List Byte) :
    ∃ sent : List Byte, sent.length ≤ 1 ∧ t.env.tx = s.env.tx ++ sent ∧ StepsTo (s.setTx l) (t.setTx (l ++ sent)) := by
  have silent {t : State} (htx : t.env.tx = s.env.tx) (hother : StepsTo (s.setTx l) (t.setTx l)) :
      ∃ sent : List Byte, sent.length ≤ 1 ∧ t.env.tx = s.env.tx ++ sent ∧
        StepsTo (s.setTx l) (t.setTx (l ++ sent)) :=
    ⟨[], by simp, by simp [htx], by simpa using hother⟩
  cases h with
  | @rx b turn =>
    refine silent (by simp [onRx, afterTurn]) ?_
    have hrx : onRx b (afterTurn (s.setTx l)) = (onRx b (afterTurn s)).setTx l :=
      congrArg wake (push_comm b (s := afterTurn s) (·.setTx l) rfl rfl)
    exact hrx ▸ .rx (s := s.setTx l) turn
  | wakePin turn => exact silent rfl (.wakePin (s := s.setTx l) turn)
  | txReady turn => exact silent rfl (.txReady (s := s.setTx l) turn)
  | reset turn => exact absurd turn hreset
  | hold turn rests => exact silent rfl (.hold (s := s.setTx l) turn rests)
  | @act a turn awake enabled =>
    refine ⟨a.sent s, a.length_sent_le s, a.apply_tx s, ?_⟩
    have hother := StepsTo.act (s := s.setTx l) (a := a) turn awake (a.enabled_setTx s l ▸ enabled)
    rw [a.apply_setTx] at hother
    exact hother

/-- Settles O55: what a step can do does not depend on the stream. -/
theorem transmitStreamIsNeverReadBack : Obligations.TransmitStreamIsNeverReadBack := by
  unfold Obligations.TransmitStreamIsNeverReadBack
  intro s t other h hreset
  obtain ⟨sent, hlen, htx, hother⟩ := (step_eq_next_iff.mp h).setTx hreset other
  exact ⟨sent, hlen, htx, step_eq_next_iff.mpr hother⟩

/-! ### The command byte -/

/-- Outside Dispatching the command byte does not decide whether the Consumer is enabled (R28). -/
theorem consumerEnabled_setCmd {s : State} (hs : s.ps ≠ .dispatching) (c : Byte) :
    consumerEnabled (s.setCmd c) = consumerEnabled s := by
  unfold consumerEnabled
  cases hp : s.ps with
  | dispatching => exact absurd hp hs
  | idle | markerFound => simp only [setCmd_pw, setCmd_ps, hp]; rfl

/-- A step from outside Dispatching is the same with another command byte: a command fetch and RESET overwrite it, and the
other steps leave it where it is (R28, R126, R210). -/
theorem StepsTo.setCmd {s t : State} (h : StepsTo s t) (hs : s.ps ≠ .dispatching) (other : Byte) :
    StepsTo (s.setCmd other) t ∨ (t.ps ≠ .dispatching ∧ StepsTo (s.setCmd other) (t.setCmd other)) := by
  cases h with
  | @rx b turn =>
    refine .inr ⟨by simpa [onRx, afterTurn] using hs, ?_⟩
    have hrx : onRx b (afterTurn (s.setCmd other)) = (onRx b (afterTurn s)).setCmd other :=
      congrArg wake (push_comm b (s := afterTurn s) (·.setCmd other) rfl rfl)
    exact hrx ▸ .rx (s := s.setCmd other) turn
  | wakePin turn => exact .inr ⟨hs, .wakePin (s := s.setCmd other) turn⟩
  | txReady turn => exact .inr ⟨hs, .txReady (s := s.setCmd other) turn⟩
  | reset turn => exact .inl (.reset (s := s.setCmd other) turn)
  | hold turn rests => exact .inr ⟨hs, .hold (s := s.setCmd other) turn ((consumerEnabled_setCmd hs other).trans rests)⟩
  | @act a turn awake enabled =>
    cases a with
    | matchMarker =>
      exact .inr ⟨nofun, .act (s := s.setCmd other) (a := .matchMarker) turn awake enabled⟩
    | resync => exact .inr ⟨hs, .act (s := s.setCmd other) (a := .resync) turn awake enabled⟩
    | fetch c => exact .inl (.act (s := s.setCmd other) (a := .fetch c) turn awake enabled)
    | send | sendLast | capture | undef => exact absurd enabled.1 hs

/-- Settles O56: with another command byte the step leaves the same one, or the other one still there. -/
theorem commandByteIsReadOnlyInDispatching : Obligations.CommandByteIsReadOnlyInDispatching := by
  unfold Obligations.CommandByteIsReadOnlyInDispatching
  intro s t other hs h
  obtain hsame | ⟨ht, hother⟩ := (step_eq_next_iff.mp h).setCmd hs other
  · exact ⟨t.cmd, step_eq_next_iff.mpr hsame, fun _ => rfl, fun _ => .inl rfl⟩
  · exact ⟨other, step_eq_next_iff.mpr hother, fun hd => absurd hd ht, fun _ => .inr rfl⟩

/-! ### The level of `tx_ready` -/

/-- The Consumer is in the reply of a READ, the only place where `tx_ready` is sampled (R141). -/
def Replying (s : State) : Prop :=
  s.pw = .active ∧ s.ps = .dispatching ∧ s.cmd = 0x01

/-- Outside a reply the level does not decide whether the Consumer is enabled. -/
theorem consumerEnabled_setTxReady {s : State} (h : ¬ Replying s) (level : Bool) :
    consumerEnabled (s.setTxReady level) = consumerEnabled s := by
  cases hp : s.pw with
  | asleep => simp [consumerEnabled, hp]
  | active =>
    cases hs : s.ps with
    | idle | markerFound => simp only [consumerEnabled, setTxReady_pw, setTxReady_ps, hp, hs]; rfl
    | dispatching =>
      have hread : isRead s.cmd = false := decide_eq_false fun hc => h ⟨hp, hs, hc⟩
      simp only [consumerEnabled, setTxReady_pw, setTxReady_ps, setTxReady_cmd, hp, hs, hread]
      rfl

/-- Outside a reply an action is enabled at every level. -/
theorem enabled_setTxReady {s : State} (h : ¬ Replying s) (hp : s.pw = .active) {a : Action} (ha : a.Enabled s)
    (level : Bool) : a.Enabled (s.setTxReady level) := by
  cases a with
  | send | sendLast =>
    obtain ⟨hs, hc, -⟩ := ha
    exact absurd ⟨hp, hs, hc⟩ h
  | matchMarker | resync | fetch | capture | undef => exact ha

theorem apply_setTxReady (a : Action) (s : State) (level : Bool) :
    a.apply (s.setTxReady level) = (a.apply s).setTxReady level := by
  cases a <;> rfl

/-- Outside a reply the Consumer's step is the same at every level. -/
theorem consumerStep_setTxReady {s t : State} (h : ¬ Replying s) (hstep : consumerStep s = .next t) (level : Bool) :
    consumerStep (s.setTxReady level) = .next (t.setTxReady level) := by
  obtain ⟨he, rfl⟩ | ⟨hp, a, ha, rfl⟩ := consumerStep_eq_next_iff.mp hstep
  · exact consumerStep_of_not_enabled ((consumerEnabled_setTxReady h level).trans he)
  · rw [← apply_setTxReady]
    exact consumerStep_of_enabled hp (enabled_setTxReady h hp ha level)

/-- Outside a reply the step of any turn but one that sets the level is the same at every level. -/
theorem StepsTo.setTxReady {s t : State} (hstep : StepsTo s t) (h : ¬ Replying s) (hturn : ∀ l, nextTurn s ≠ .txReady l)
    (level : Bool) : StepsTo (s.setTxReady level) (t.setTxReady level) := by
  cases hstep with
  | @rx b turn =>
    have hrx : onRx b (afterTurn (s.setTxReady level)) = (onRx b (afterTurn s)).setTxReady level :=
      congrArg wake (push_comm b (s := afterTurn s) (·.setTxReady level) rfl rfl)
    exact hrx ▸ .rx (s := s.setTxReady level) turn
  | wakePin turn => exact .wakePin (s := s.setTxReady level) turn
  | txReady turn => exact absurd turn (hturn _)
  | reset turn => exact .reset (s := s.setTxReady level) turn
  | hold turn rests => exact .hold (s := s.setTxReady level) turn ((consumerEnabled_setTxReady h level).trans rests)
  | @act a turn awake enabled =>
    have hother := StepsTo.act (s := s.setTxReady level) turn awake (enabled_setTxReady h awake enabled level)
    rw [apply_setTxReady] at hother
    exact hother

/-- Settles O57: the steps answer under the invariants, and outside a reply the same at every level. -/
theorem txReadyIsSampledOnlyInAReply : Obligations.TxReadyIsSampledOnlyInAReply := by
  unfold Obligations.TxReadyIsSampledOnlyInAReply
  intro s level hi hreply
  constructor
  · obtain ⟨t, ht⟩ := hi.consumerStep_answers
    exact ⟨t, ht, consumerStep_setTxReady hreply ht level⟩
  · intro hturn
    obtain ⟨t, ht⟩ := noStepFaultsOrIsRefused s hi
    exact ⟨t, ht, step_eq_next_iff.mpr ((step_eq_next_iff.mp ht).setTxReady hreply hturn level)⟩

end Sys2Proof.Machine
end

section
/-! Proofs about the ring buffer, the reset state and the event steps. -/

namespace Sys2Proof.Machine

/-! ### The ring buffer -/

/-- A push adds one to the occupied length, up to 15 (R101, R102). -/
theorem occupiedLength_push_min (b : Byte) {s : State} (h : occupiedLength s ≤ 15) :
    occupiedLength (push b s) = min 15 (occupiedLength s + 1) := by
  by_cases hroom : occupiedLength s < 15
  · rw [occupiedLength_push b hroom]
    omega
  · rw [push_dropped b hroom]
    omega

/-- Settles O13, by induction on the bytes pushed. -/
theorem occupiedLengthCountsPushesUpToFifteen : Obligations.OccupiedLengthCountsPushesUpToFifteen := by
  unfold Obligations.OccupiedLengthCountsPushesUpToFifteen
  intro bytes
  induction bytes with
  | nil => intro s h; simpa using h
  | cons b bytes ih =>
    intro s h
    have hpush := occupiedLength_push_min b h
    rw [List.foldl_cons, ih (push b s) (by omega), List.length_cons]
    omega

/-- The slot `k` places after a counter value (R51). -/
theorem slotOf_add (c : Byte) (k : Nat) : slotOf (c + BitVec.ofNat 8 k) = (c.toNat + k) % 16 := by
  rw [slotOf_eq_mod, BitVec.toNat_add, BitVec.toNat_ofNat]
  omega

/-- A push leaves every byte of the window where it is (R69). -/
theorem memRead_push {s : State} {k : Nat} (hocc : occupiedLength s ≤ 15) (hk : k < occupiedLength s) (b : Byte) :
    memRead (push b s) (s.r + BitVec.ofNat 8 k) = memRead s (s.r + BitVec.ofNat 8 k) :=
  read_push_other b s (slotOf_w_ne hk (by omega))

/-- Settles O14: the window's byte is peeked before the push and after it. -/
theorem peekReadsTheWindowWhateverIsPushed : Obligations.PeekReadsTheWindowWhateverIsPushed := by
  unfold Obligations.PeekReadsTheWindowWhateverIsPushed
  intro s k v b hocc hk hv
  have hread : memRead s (s.r + BitVec.ofNat 8 k) = some v := by rw [memRead, slotOf_add, hv]
  have hpush := occupiedLength_push_min b hocc
  refine ⟨peek_of_read hk hread, peek_of_read (by omega) ?_⟩
  rw [push_r, memRead_push hocc hk, hread]

/-- Settles O16: both operations test the occupied length first. -/
theorem usesOutsideTheWindowAreRefused : Obligations.UsesOutsideTheWindowAreRefused := by
  unfold Obligations.UsesOutsideTheWindowAreRefused
  intro s n
  exact ⟨fun h => if_neg (Nat.not_lt.mpr h), fun h => if_neg (Nat.not_le.mpr h)⟩

/-- A pop takes the byte of the oldest slot (R106, D19). -/
theorem pop_of_read {s : State} {v : Byte} (go : Byte → State → Result) (hocc : 1 ≤ occupiedLength s)
    (h : memRead s s.r = some v) : pop s go = go v (s.setR (s.r + 1)) := by
  have hpeek : peek 0 s = .next v := peek_of_read hocc (by simpa using h)
  simp [pop, await_of_le _ hocc, hpeek, consume_of_le hocc]

/-- Settles O17: `pop()` is an `await(1)` before the peek and the consume. -/
theorem awaitAndPopWaitForBytes : Obligations.AwaitAndPopWaitForBytes := by
  unfold Obligations.AwaitAndPopWaitForBytes
  refine ⟨fun s n go => ⟨await_of_le go, await_of_lt go⟩, fun s v go hocc h => ?_, fun s go hocc => ?_⟩
  · exact pop_of_read go hocc (by rw [memRead, slotOf_eq_mod, h])
  · exact await_of_lt _ (by omega)

/-- Settles O18: a push and a consume act on the window, whose every slot holds a byte under the invariants. -/
theorem bytesLeaveInTheOrderTheyWerePushed : Obligations.BytesLeaveInTheOrderTheyWerePushed := by
  unfold Obligations.BytesLeaveInTheOrderTheyWerePushed
  intro s hi
  constructor
  · intro b
    rw [hi.queue_length]
    exact queue_push b s
  · intro n t h
    obtain ⟨hn, rfl⟩ := consume_eq_next h
    exact hi.queue_consume hn

/-! ### The canonical form -/

/-- The canonical form above a bound, of a memory with a first pair. -/
theorem wfFrom_cons_iff {low a : Nat} {b : Byte} {m : Memory} :
    Memory.wfFrom low ((a, b) :: m) = true ↔ low ≤ a ∧ a < 16 ∧ Memory.wfFrom (a + 1) m = true := by
  simp only [Memory.wfFrom, Bool.and_eq_true, decide_eq_true_eq, and_assoc]
  rfl

/-- Nothing is stored below the bound of a canonical form. -/
theorem read_eq_none_of_lt {m : Memory} {low slot : Nat} (hm : Memory.wfFrom low m = true) (h : slot < low) :
    m.read slot = none := by
  induction m generalizing low with
  | nil => rfl
  | cons cell m ih =>
    obtain ⟨a, b⟩ := cell
    obtain ⟨hlow, -, htail⟩ := wfFrom_cons_iff.mp hm
    rw [Memory.read, if_neg (by omega), ih htail (by omega)]

/-- The first slot of a canonical memory is the least that holds a byte, so it is no later than another's that reads
alike. -/
theorem first_le_of_read_eq {low' a a' : Nat} {b b' : Byte} {m m' : Memory}
    (hm' : Memory.wfFrom low' ((a', b') :: m') = true)
    (h : Memory.read ((a, b) :: m) a = Memory.read ((a', b') :: m') a) : a' ≤ a := by
  by_contra hlt
  obtain ⟨-, ha', htail'⟩ := wfFrom_cons_iff.mp hm'
  have hfrom : Memory.wfFrom a' ((a', b') :: m') = true := wfFrom_cons_iff.mpr ⟨le_rfl, ha', htail'⟩
  have hnone := read_eq_none_of_lt hfrom (Nat.not_le.mp hlt)
  rw [hnone, Memory.read, if_pos rfl] at h
  cases h

/-- Canonical memories above bounds that read alike are equal. -/
theorem eq_of_read_eq {m m' : Memory} {low low' : Nat} (hm : Memory.wfFrom low m = true)
    (hm' : Memory.wfFrom low' m' = true) (h : ∀ slot, m.read slot = m'.read slot) : m = m' := by
  induction m generalizing m' low low' with
  | nil =>
    cases m' with
    | nil => rfl
    | cons cell' m' => simpa [Memory.read] using h cell'.1
  | cons cell m ih =>
    obtain ⟨a, b⟩ := cell
    cases m' with
    | nil => simpa [Memory.read] using h a
    | cons cell' m' =>
      obtain ⟨a', b'⟩ := cell'
      obtain rfl : a = a' := Nat.le_antisymm (first_le_of_read_eq hm (h a').symm) (first_le_of_read_eq hm' (h a))
      obtain ⟨-, -, htail⟩ := wfFrom_cons_iff.mp hm
      obtain ⟨-, -, htail'⟩ := wfFrom_cons_iff.mp hm'
      obtain rfl : b = b' := by simpa [Memory.read] using h a
      have hrest (slot : Nat) : Memory.read m slot = Memory.read m' slot := by
        by_cases hslot : a = slot
        · rw [read_eq_none_of_lt htail (by omega), read_eq_none_of_lt htail' (by omega)]
        · simpa [Memory.read, hslot] using h slot
      rw [ih htail htail' hrest]

/-- Settles O19, by induction on both memories: their first slots agree, and so do the slots behind them. -/
theorem canonicalMemoriesReadingAlikeAreEqual : Obligations.CanonicalMemoriesReadingAlikeAreEqual := by
  unfold Obligations.CanonicalMemoriesReadingAlikeAreEqual
  intro m m' hm hm' h
  exact eq_of_read_eq hm hm' h

/-! ### Reset and the event steps -/

/-- Settles O9: `State.reset` field by field. -/
theorem resetValues : Obligations.ResetValues :=
  ⟨rfl, rfl, rfl, rfl, rfl, rfl, rfl, fun _ => rfl⟩

/-- Settles O10: the step is the RESET turn's. -/
theorem resetEventRestoresResetState : Obligations.ResetEventRestoresResetState := by
  unfold Obligations.ResetEventRestoresResetState
  intro s rest h
  rw [step_of_sched h]
  rfl

/-- A push changes `BUF` and `W` only, whether it stores or drops (R101). -/
theorem push_eq (b : Byte) (s : State) : push b s = { s with buf := (push b s).buf, w := (push b s).w } := by
  by_cases hroom : occupiedLength s < 15
  · rw [push_admitted b hroom]
    rfl
  · rw [push_dropped b hroom]

/-- Settles O43: the step is the receive handler's, a push and the wake. -/
theorem receivedByteIsPushedAndWakes : Obligations.ReceivedByteIsPushedAndWakes := by
  unfold Obligations.ReceivedByteIsPushedAndWakes
  intro s b rest h
  rw [← slotOf_eq_mod]
  refine ⟨onRx b (s.setSched rest), step_of_sched h, ?frame, ?stored, ?dropped⟩
  case frame => exact congrArg wake (push_eq b (s.setSched rest))
  case stored =>
    intro hroom
    have hroom' : occupiedLength (s.setSched rest) < 15 := hroom
    refine ⟨?_, read_push_written b hroom', fun slot hslot => read_push_other b (s.setSched rest) hslot⟩
    rw [onRx, push_admitted b hroom']
    rfl
  case dropped =>
    intro hfull
    have hfull' : ¬ occupiedLength (s.setSched rest) < 15 := hfull
    rw [onRx, push_dropped b hfull']
    exact ⟨rfl, rfl⟩

/-- Settles O46: the wake commutes with the push, which does not look at the power state. -/
theorem handlersCommute : Obligations.HandlersCommute := by
  unfold Obligations.HandlersCommute
  intro b s
  have hpush : push b (wake s) = wake (push b s) := push_comm b wake rfl rfl
  rw [onWakePin, onWakePin, onRx, onRx, hpush]

end Sys2Proof.Machine
end

section
/-! Proofs about the commands: what the execution of an instruction answers, and what it leaves unchanged. -/

namespace Sys2Proof.Machine

/-! ### What a command's meaning answers -/

/-- A command that is not being dispatched is refused (R196, log 8). -/
theorem whenDispatched_refused {k : Byte} {s : State} (body : State → Result) (h : s.ps ≠ .dispatching ∨ s.cmd ≠ k) :
    whenDispatched k s body = .refused .notDispatched :=
  if_neg fun ⟨hs, hc⟩ => h.elim (· hs) (· hc)

/-- A dispatched command changes nothing while the block is asleep (R162, log 8). -/
theorem whenDispatched_asleep {k : Byte} {s : State} (body : State → Result) (hs : s.ps = .dispatching) (hc : s.cmd = k)
    (hp : s.pw = .asleep) : whenDispatched k s body = .next s := by
  simp [whenDispatched, hs, hc, hp, hold]

/-- Everything a command's meaning that answers can do: nothing while asleep, else its body. -/
theorem whenDispatched_eq_next {k : Byte} {s t : State} {body : State → Result} (h : whenDispatched k s body = .next t) :
    t = s ∨ body s = .next t := by
  by_cases hd : s.ps = .dispatching ∧ s.cmd = k
  · obtain ⟨hs, hc⟩ := hd
    cases hp : s.pw with
    | active => exact .inr (whenDispatched_eq body hs hc hp ▸ h)
    | asleep =>
      rw [whenDispatched_asleep body hs hc hp] at h
      cases h
      exact .inl rfl
  · rw [whenDispatched, if_neg hd] at h
    cases h

/-- WRITE-CAPTURE (R142, R143): the capture with the payload there, else a hold. -/
theorem writeCapture_eq (v : StoredValue) (s : State) :
    writeCapture v s = .next (if 4 ≤ occupiedLength s then (Action.capture v).apply s else s) := by
  by_cases hocc : 4 ≤ occupiedLength s
  · have hocc' : 4 ≤ occupiedLength (s.setSv v) := hocc
    rw [if_pos hocc, writeCapture, Config.payloadSize, await_of_le _ hocc, consume_of_le hocc']
    rfl
  · rw [if_neg hocc]
    exact await_of_lt _ (Nat.not_le.mp hocc)

/-- The instructions of the rows after READ's and WRITE's are executed as the UNDEF of their command byte (R144). -/
theorem exec_eq_undefStep {i : Instr} (h : 2 ≤ i.rowNumber) (s : State) : exec i s = undefStep i.cmdByte s := by
  cases i with
  | read | write => simp [Instr.rowNumber] at h
  | undef00 | undef03 | undef04to07 | undef08to0F | undef10to1F | undef20to3F | undef40to7F | undef80toFF => rfl

/-- The rows of READ and of WRITE come before the UNDEF rows (R96). -/
theorem rowNumber_cases (i : Instr) : i = .read ∨ (∃ p0 p1 p2 p3, i = .write p0 p1 p2 p3) ∨ 2 ≤ i.rowNumber := by
  cases i with
  | read => exact .inl rfl
  | write p0 p1 p2 p3 => exact .inr (.inl ⟨p0, p1, p2, p3, rfl⟩)
  | undef00 | undef03 | undef04to07 | undef08to0F | undef10to1F | undef20to3F | undef40to7F | undef80toFF =>
    exact .inr (.inr (by simp [Instr.rowNumber]))

/-- An UNDEF of a command byte other than 1 and 2 is its completion, where it is dispatched (R144). -/
theorem undefStep_of_ne {k : Byte} (s : State) (hread : k ≠ Config.readCmd) (hwrite : k ≠ Config.writeCmd) :
    undefStep k s = whenDispatched k s fun s => .next (finishCommand s) := by
  simp [undefStep, isRead, isWrite, hread, hwrite]

/-- An UNDEF of the command byte of a READ or a WRITE has no meaning (log 8). -/
theorem undefStep_reserved {k : Byte} (s : State) (h : ¬ (k ≠ Config.readCmd ∧ k ≠ Config.writeCmd)) :
    undefStep k s = .refused .notDispatched := by
  refine if_pos ?_
  simpa [isRead, isWrite, or_iff_not_imp_left] using h

/-! ### The frames -/

/-- Settles O36: a READ that answers holds, sends a byte, or sends the last. -/
theorem readFrame : Obligations.ReadFrame := by
  unfold Obligations.ReadFrame
  intro s t h
  obtain rfl | hbody := whenDispatched_eq_next (body := readTx) h
  · exact ⟨fun _ => rfl, rfl, rfl, rfl, rfl, rfl, rfl, .inl ⟨rfl, rfl, rfl, rfl⟩, fun _ => ⟨rfl, rfl⟩⟩
  rw [readTx_eq] at hbody
  cases hbody
  split
  · split
    · exact ⟨fun _ => rfl, rfl, rfl, rfl, rfl, rfl, rfl, .inr rfl, fun htxi => absurd ‹s.txi = 3› htxi⟩
    · exact ⟨fun _ => rfl, rfl, rfl, rfl, rfl, rfl, rfl, .inr rfl, fun _ => ⟨rfl, rfl⟩⟩
  · exact ⟨fun _ => rfl, rfl, rfl, rfl, rfl, rfl, rfl, .inl ⟨rfl, rfl, rfl, rfl⟩, fun _ => ⟨rfl, rfl⟩⟩

/-- Settles O37: a WRITE that answers holds or captures. -/
theorem writeFrame : Obligations.WriteFrame := by
  unfold Obligations.WriteFrame
  intro s t p0 p1 p2 p3 h
  obtain rfl | hbody := whenDispatched_eq_next (body := writeCapture ⟨p0, p1, p2, p3⟩) h
  · exact ⟨fun _ => rfl, rfl, rfl, rfl, rfl, .inl rfl⟩
  rw [writeCapture_eq] at hbody
  cases hbody
  split
  · exact ⟨fun _ => rfl, rfl, rfl, rfl, rfl, .inr ⟨rfl, rfl, rfl, rfl⟩⟩
  · exact ⟨fun _ => rfl, rfl, rfl, rfl, rfl, .inl rfl⟩

/-- Settles O38: an UNDEF that answers holds asleep or completes. -/
theorem undefFrame : Obligations.UndefFrame := by
  unfold Obligations.UndefFrame
  intro i s t hrow h
  rw [exec_eq_undefStep hrow] at h
  by_cases hc : i.cmdByte ≠ Config.readCmd ∧ i.cmdByte ≠ Config.writeCmd
  · obtain ⟨hread, hwrite⟩ := hc
    rw [undefStep_of_ne s hread hwrite] at h
    obtain rfl | hbody := whenDispatched_eq_next h
    · exact ⟨fun _ => rfl, rfl, rfl, rfl, rfl, rfl, rfl⟩
    · cases hbody
      exact ⟨fun _ => rfl, rfl, rfl, rfl, rfl, rfl, rfl⟩
  · rw [undefStep_reserved s hc] at h
    cases h

/-- Settles O39: every meaning begins with the test of what is dispatched. -/
theorem commandsNotDispatchedAreRefused : Obligations.CommandsNotDispatchedAreRefused := by
  unfold Obligations.CommandsNotDispatchedAreRefused
  intro i s
  constructor
  · intro h
    obtain rfl | ⟨p0, p1, p2, p3, rfl⟩ | hrow := rowNumber_cases i
    · exact whenDispatched_refused _ h
    · exact whenDispatched_refused _ h
    rw [exec_eq_undefStep hrow]
    by_cases hc : i.cmdByte ≠ Config.readCmd ∧ i.cmdByte ≠ Config.writeCmd
    · obtain ⟨hread, hwrite⟩ := hc
      rw [undefStep_of_ne s hread hwrite, whenDispatched_refused _ h]
    · exact undefStep_reserved s hc
  · intro hw hs hcmd hp
    obtain rfl | ⟨p0, p1, p2, p3, rfl⟩ | ⟨hread, hwrite, hundef⟩ := wellFormed_cases hw
    · exact whenDispatched_asleep _ hs hcmd hp
    · exact whenDispatched_asleep _ hs hcmd hp
    · rw [← hundef, exec_undefInstr, undefStep_of_ne s hread hwrite, whenDispatched_asleep _ hs hcmd hp]

/-! ### READ -/

/-- A READ that is dispatched, awake (R140, R141). -/
theorem exec_read {s : State} (hs : s.ps = .dispatching) (hc : s.cmd = Config.readCmd) (hp : s.pw = .active) :
    exec .read s =
      .next (if s.env.txReady then if s.txi = 3 then Action.sendLast.apply s else Action.send.apply s else s) :=
  (execRead_eq hs hc hp).trans (readTx_eq s)

/-- The state after a byte of the reply before the last, written out. -/
theorem send_apply_eq (s : State) :
    Action.send.apply s = { s with txi := s.txi + 1, env := { s.env with tx := s.env.tx ++ [s.sv.byte s.txi] } } :=
  rfl

/-- The state after the last byte of the reply, written out. -/
theorem sendLast_apply_eq (s : State) :
    Action.sendLast.apply s =
      { s with txi := 0, ps := .idle, pw := .asleep, env := { s.env with tx := s.env.tx ++ [s.sv.byte s.txi] } } :=
  rfl

/-- Settles O27: READ-TX with the channel ready, at each reply index. -/
theorem readTransmitsTheNextByte : Obligations.ReadTransmitsTheNextByte := by
  unfold Obligations.ReadTransmitsTheNextByte
  intro s hs hc hp hready
  have hsend (h : s.txi ≠ 3) : exec .read s = .next (Action.send.apply s) := by
    rw [exec_read hs hc hp, if_pos hready, if_neg h]
  refine ⟨fun h => ?_, fun h => ?_, fun h => ?_, fun h => ?_⟩
  · rw [hsend (by simp [h]), send_apply_eq, h]
    rfl
  · rw [hsend (by simp [h]), send_apply_eq, h]
    rfl
  · rw [hsend (by simp [h]), send_apply_eq, h]
    rfl
  · rw [exec_read hs hc hp, if_pos hready, if_pos h, sendLast_apply_eq, h]
    rfl

/-- Settles O28: READ-TX holds without the channel, and the Consumer's step is the READ's. -/
theorem readWaitsForTheChannel : Obligations.ReadWaitsForTheChannel := by
  unfold Obligations.ReadWaitsForTheChannel
  intro s hs hc hp hready
  have hread : exec .read s = .next s := by rw [exec_read hs hc hp, hready, if_neg Bool.false_ne_true]
  refine ⟨hread, ?_⟩
  rw [consumerStep_dispatching hp hs, dispatchStep_read hc]
  exact hread

/-- Several steps after a first that answers. -/
theorem steps_of_step {s u : State} (h : step s = .next u) (k : Nat) : steps (k + 1) s = steps k u := by
  rw [steps, h, andThen_next]

/-- With no turn listed the step is the Consumer's (R18, R235). -/
theorem step_of_no_turns {s : State} (h : s.env.sched = []) : step s = consumerStep s := by
  rw [step, nextStep, h]

/-- A READ's reply runs with the channel ready and no turn listed. -/
structure Sending (s : State) : Prop where
  dispatching : s.ps = .dispatching
  command : s.cmd = Config.readCmd
  awake : s.pw = .active
  ready : s.env.txReady = true
  alone : s.env.sched = []

/-- A byte before the last leaves the reply running. -/
theorem Sending.send {s : State} (h : Sending s) : Sending (Action.send.apply s) :=
  ⟨h.dispatching, h.command, h.awake, h.ready, h.alone⟩

theorem Sending.step_send {s : State} (h : Sending s) (htxi : s.txi ≠ 3) : step s = .next (Action.send.apply s) := by
  rw [step_of_no_turns h.alone]
  exact consumerStep_of_enabled h.awake ⟨h.dispatching, h.command, h.ready, htxi⟩

theorem Sending.step_sendLast {s : State} (h : Sending s) (htxi : s.txi = 3) :
    step s = .next (Action.sendLast.apply s) := by
  rw [step_of_no_turns h.alone]
  exact consumerStep_of_enabled h.awake ⟨h.dispatching, h.command, h.ready, htxi⟩

/-- Settles O29: three bytes that leave the reply running, and the last. -/
theorem readReplyIsTheStoredValue : Obligations.ReadReplyIsTheStoredValue := by
  unfold Obligations.ReadReplyIsTheStoredValue
  intro s hs hc hp htxi hready hsched
  have h0 : Sending s := ⟨hs, hc, hp, hready, hsched⟩
  have h1 := h0.send
  have h2 := h1.send
  have h3 := h2.send
  rw [steps_of_step (h0.step_send (by simp [htxi])), steps_of_step (h1.step_send (by simp [Action.apply, htxi])),
    steps_of_step (h2.step_send (by simp [Action.apply, htxi])),
    steps_of_step (h3.step_sendLast (by simp [Action.apply, htxi])), steps]
  simp [send_apply_eq, sendLast_apply_eq, htxi, StoredValue.byte]

/-! ### WRITE and UNDEF -/

/-- Settles O31: the capture. -/
theorem writeReplacesTheStoredValue : Obligations.WriteReplacesTheStoredValue := by
  unfold Obligations.WriteReplacesTheStoredValue
  intro s p0 p1 p2 p3 hs hc hp hocc
  exact execWrite_eq p0 p1 p2 p3 hs hc hp hocc

/-- Settles O33: a stalled WRITE holds, whatever payload it is given. -/
theorem writeWaitsForItsPayload : Obligations.WriteWaitsForItsPayload := by
  unfold Obligations.WriteWaitsForItsPayload
  intro s p0 p1 p2 p3 hs hc hp hocc
  exact ⟨StalledWrite.consumerStep_eq ⟨hs, hc, hp, hocc⟩, execWrite_hold p0 p1 p2 p3 hs hc hp hocc⟩

/-- Settles O35: each row is the UNDEF step of its command byte, which is neither 1 nor 2 in any row. -/
theorem undefRowsGoToSleepAndDoNothingElse : Obligations.UndefRowsGoToSleepAndDoNothingElse := by
  unfold Obligations.UndefRowsGoToSleepAndDoNothingElse
  intro s hs hp
  have undef (hread : s.cmd ≠ 0x01) (hwrite : s.cmd ≠ 0x02) :
      undefStep s.cmd s = .next { s with ps := .idle, pw := .asleep } :=
    undefStep_eq hs hread hwrite hp
  have above {low : Byte} (hlow : 0x03 ≤ low) (h : low ≤ s.cmd) :
      undefStep s.cmd s = .next { s with ps := .idle, pw := .asleep } := by
    have hcmd : 0x03 ≤ s.cmd := BitVec.le_trans hlow h
    refine undef (fun hread => ?_) fun hwrite => ?_
    · rw [hread] at hcmd
      exact absurd hcmd (by decide)
    · rw [hwrite] at hcmd
      exact absurd hcmd (by decide)
  refine ⟨fun h => ?_, fun h => ?_, fun h _ => above ?_ h, fun h _ => above ?_ h, fun h _ => above ?_ h,
    fun h _ => above ?_ h, fun h _ => above ?_ h, fun h _ => above ?_ h⟩
  · exact h ▸ undef (by simp [h]) (by simp [h])
  · exact h ▸ undef (by simp [h]) (by simp [h])
  all_goals decide

/-- Settles O40: the dispatch decodes and executes, and the turns play no part in the operands. -/
theorem stepExecutesTheDispatchedInstruction : Obligations.StepExecutesTheDispatchedInstruction := by
  unfold Obligations.StepExecutesTheDispatchedInstruction
  intro s bytes rest i hturn hp hs hbytes hdecode
  have hbytes' : operandBytes (afterTurn s) = .next bytes := hbytes
  have hdecode' : decodeCommand (afterTurn s).cmd bytes = .ok (i, rest) := hdecode
  calc step s = consumerStep (afterTurn s) := by rw [step_eq_takeTurn, hturn]; rfl
    _ = dispatchStep (afterTurn s) := consumerStep_dispatching hp hs
    _ = exec i (afterTurn s) := by rw [dispatchStep, hbytes', andThen_next, hdecode']

end Sys2Proof.Machine
end

section
/-! Proofs about the opcode table: which row a frame selects, and a table word under both numberings of its bytes. -/

namespace Sys2Proof.Machine

/-! ### Rows -/

/-- The place in the table of the row whose command byte is given (R88, R96). -/
def commandRow (c : Byte) : Nat :=
  if c = Config.readCmd then 0 else if c = Config.writeCmd then 1 else (undefInstr c).rowNumber

/-- A well-formed instruction's row is its command byte's. -/
theorem commandRow_cmdByte {i : Instr} (hw : i.wellFormed = true) : commandRow i.cmdByte = i.rowNumber := by
  obtain rfl | ⟨p0, p1, p2, p3, rfl⟩ | ⟨hread, hwrite, hundef⟩ := wellFormed_cases hw
  · rfl
  · rfl
  · rw [commandRow, if_neg hread, if_neg hwrite, hundef]

/-- Only the command byte of a WRITE is in the row of WRITE. -/
theorem commandRow_eq_one_iff {c : Byte} : commandRow c = 1 ↔ c = Config.writeCmd := by
  by_cases hread : c = Config.readCmd
  · subst hread
    decide
  by_cases hwrite : c = Config.writeCmd
  · subst hwrite
    decide
  · have hrow := two_le_rowNumber_undefInstr c
    rw [commandRow, if_neg hread, if_neg hwrite]
    exact iff_of_false (by omega) hwrite

/-- The rows of five bytes partition the command bytes but WRITE's, by their last byte's pattern and mask (R96). -/
theorem five_byte_rows : ∀ c : Byte, ∀ p ∈ tableRows.zipIdx, p.1.lengthBytes = 5 →
    ((0xDEADBEAF00 + c.toNat) &&& p.1.mask = p.1.pattern ↔ p.2 = commandRow c) := by
  decide

/-- The only other row is WRITE's (R96). -/
theorem nine_byte_row : ∀ p ∈ tableRows.zipIdx, p.1.lengthBytes ≠ 5 →
    p.1 = ⟨9, 0xDEADBEAF0200000000, 0xFFFFFFFFFF00000000⟩ ∧ p.2 = 1 := by
  decide

/-- A mask without its low bits leaves of a number what stands above them. -/
theorem and_mul_two_pow (x m k : Nat) : x &&& (m * 2 ^ k) = (x / 2 ^ k &&& m) * 2 ^ k := by
  apply Nat.eq_of_testBit_eq
  intro j
  simp only [Nat.testBit_and, Nat.testBit_mul_two_pow, Nat.testBit_div_two_pow]
  by_cases hj : k ≤ j
  · simp [hj]
  · simp [hj]

/-- The first five bytes of a frame as a number. -/
theorem frameNumber_five (c : Byte) : frameNumber [0xDE, 0xAD, 0xBE, 0xAF, c] = 0xDEADBEAF00 + c.toNat := by
  simp [frameNumber]

/-- The row of WRITE compares the first five of nine bytes, and only WRITE's command byte matches it (R84, R96). -/
theorem write_row_matches_iff (c p0 p1 p2 p3 : Byte) :
    frameNumber [0xDE, 0xAD, 0xBE, 0xAF, c, p0, p1, p2, p3] &&& 0xFFFFFFFFFF00000000 = 0xDEADBEAF0200000000 ↔
      c = 0x02 := by
  have hdiv : frameNumber [0xDE, 0xAD, 0xBE, 0xAF, c, p0, p1, p2, p3] / 2 ^ 32 = 0xDEADBEAF00 + c.toNat := by
    simp [frameNumber]
    omega
  have hc := c.isLt
  have hand : (0xDEADBEAF00 + c.toNat) &&& (2 ^ 40 - 1) = 0xDEADBEAF00 + c.toNat := by
    rw [Nat.and_two_pow_sub_one_eq_mod]
    omega
  have hmask : 0xFFFFFFFFFF00000000 = (2 ^ 40 - 1) * 2 ^ 32 := by norm_num
  have htwo : (0x02 : Byte).toNat = 2 := rfl
  rw [hmask, and_mul_two_pow, hdiv, hand, ← BitVec.toNat_inj, htwo]
  omega

/-- A frame with anything behind it, and with its payload there if it is a WRITE, selects the row of its command byte. -/
theorem selects_iff {c : Byte} {tail : List Byte} (hpayload : c = 0x02 → 4 ≤ tail.length) {row : Row} {n : Nat}
    (hrow : tableRows[n]? = some row) :
    row.selects (0xDE :: 0xAD :: 0xBE :: 0xAF :: c :: tail) = true ↔ n = commandRow c := by
  have hmem : (row, n) ∈ tableRows.zipIdx := List.mk_mem_zipIdx_iff_getElem?.mpr hrow
  by_cases hfive : row.lengthBytes = 5
  · have hmatch := five_byte_rows c (row, n) hmem hfive
    rw [← frameNumber_five] at hmatch
    simpa [Row.selects, hfive] using hmatch
  · obtain ⟨hwrite, hn⟩ := nine_byte_row (row, n) hmem hfive
    simp only at hwrite hn
    subst hwrite hn
    rw [eq_comm (a := 1), commandRow_eq_one_iff]
    by_cases hlen : 4 ≤ tail.length
    · obtain ⟨p0, p1, p2, p3, rest, rfl⟩ := exists_four hlen
      simpa [Row.selects, Config.writeCmd] using write_row_matches_iff c p0 p1 p2 p3
    · refine iff_of_false ?_ fun hc => hlen (hpayload hc)
      simp [Row.selects, hlen]

/-- Settles O7: the frame is its marker, its command byte and what follows, and a WRITE's payload follows. -/
theorem everyFrameSelectsItsRowAlone : Obligations.EveryFrameSelectsItsRowAlone := by
  unfold Obligations.EveryFrameSelectsItsRowAlone
  intro i rest n row hw hrow
  rw [← commandRow_cmdByte hw]
  refine selects_iff (tail := i.payload ++ rest) (fun hc => ?_) hrow
  obtain ⟨p0, p1, p2, p3, rfl⟩ := (eq_write_iff_cmdByte hw).mpr hc
  simp [Instr.payload]

/-! ### A table word's bytes -/

/-- A further byte of a frame is the least significant of its number (R96). -/
theorem frameNumber_append (bytes : List Byte) (b : Byte) :
    frameNumber (bytes ++ [b]) = frameNumber bytes * 256 + b.toNat := by
  simp [frameNumber]

/-- The last byte of a number. -/
theorem byteOfNat_zero (x : Nat) (b : Byte) : byteOfNat (x * 256 + b.toNat) 0 = b := by
  apply BitVec.eq_of_toNat_eq
  have hb := b.isLt
  simp only [byteOfNat, Nat.mul_zero, Nat.shiftRight_zero, BitVec.toNat_ofNat]
  omega

/-- The other bytes of a number are those of its quotient. -/
theorem byteOfNat_succ (x n : Nat) (b : Byte) : byteOfNat (x * 256 + b.toNat) (n + 1) = byteOfNat x n := by
  have hb := b.isLt
  have hdiv : (x * 256 + b.toNat) / 2 ^ 8 = x := by omega
  rw [byteOfNat, byteOfNat, Nat.mul_succ 8 n, Nat.add_comm (8 * n) 8, Nat.shiftRight_add, Nat.shiftRight_eq_div_pow _ 8, hdiv]

/-- A list of bytes is read back from its number, most significant first (R96). -/
theorem bytesFirstHigh_frameNumber (bytes : List Byte) : bytesFirstHigh bytes.length (frameNumber bytes) = bytes := by
  induction bytes using List.reverseRecOn with
  | nil => rfl
  | append_singleton bytes b ih =>
    have hfront : (List.range bytes.length).map
        (fun k => byteOfNat (frameNumber bytes * 256 + b.toNat) (bytes.length - k)) =
        bytesFirstHigh bytes.length (frameNumber bytes) := by
      refine List.map_congr_left fun k hk => ?_
      have hk' : k < bytes.length := List.mem_range.mp hk
      rw [show bytes.length - k = bytes.length - 1 - k + 1 by omega, byteOfNat_succ]
    rw [bytesFirstHigh, frameNumber_append, List.length_append, List.length_singleton, List.range_succ, List.map_append,
      List.map_singleton, Nat.add_sub_cancel, hfront, ih, Nat.sub_self, byteOfNat_zero]

/-- The two numberings read the same bytes in opposite orders. -/
theorem bytesFirstLow_eq_reverse (n w : Nat) : bytesFirstLow n w = (bytesFirstHigh n w).reverse := by
  refine List.ext_getElem (by simp [bytesFirstLow, bytesFirstHigh]) fun k hk _ => ?_
  have hk' : k < n := by simpa [bytesFirstLow] using hk
  simp only [bytesFirstLow, bytesFirstHigh, List.getElem_reverse, List.getElem_map, List.getElem_range, List.length_map,
    List.length_range]
  congr 1
  omega

/-- A list of bytes is read back from the number of its reverse, least significant first. -/
theorem bytesFirstLow_frameNumber_reverse (bytes : List Byte) :
    bytesFirstLow bytes.length (frameNumber bytes.reverse) = bytes := by
  have h := bytesFirstHigh_frameNumber bytes.reverse
  rw [List.length_reverse] at h
  rw [bytesFirstLow_eq_reverse, h, List.reverse_reverse]

/-- The bytes placed for an instruction: its frame, filled with zeros to the longest frame (log 10). -/
def paddedFrame (i : Instr) : List Byte :=
  encode i ++ List.replicate (longestFrame - (encode i).length) 0

/-- R96's number of an instruction's frame is read as that frame. -/
theorem tableBytes_frameNumber (i : Instr) :
    tableBytes (8 * (encode i).length) (frameNumber (encode i)) = paddedFrame i := by
  rw [tableBytes, Nat.mul_div_cancel_left _ (by decide : 0 < 8)]
  simp only [bytesFirstHigh_frameNumber]
  exact congrArg (· ++ _) (if_pos rfl)

/-- Only a palindrome, the WRITE whose payload ends in the marker backwards, starts with the marker from both ends. -/
theorem reverse_encode_of_marker {i : Instr} (h : (encode i).reverse.take 4 = Config.marker) :
    (encode i).reverse = encode i := by
  cases i with
  | write p0 p1 p2 p3 =>
    obtain ⟨rfl, rfl, rfl, rfl⟩ : p3 = 0xDE ∧ p2 = 0xAD ∧ p1 = 0xBE ∧ p0 = 0xAF := by
      simpa [encode, Config.marker, Instr.payload] using h
    rfl
  | read | undef00 | undef03 | undef04to07 | undef08to0F | undef10to1F | undef20to3F | undef40to7F | undef80toFF =>
    simp [encode, Config.marker, Instr.payload] at h

/-- The same frame's number with the first byte least significant is read as that frame. -/
theorem tableBytes_frameNumber_reverse (i : Instr) :
    tableBytes (8 * (encode i).length) (frameNumber (encode i).reverse) = paddedFrame i := by
  have hhigh := bytesFirstHigh_frameNumber (encode i).reverse
  rw [List.length_reverse] at hhigh
  rw [tableBytes, Nat.mul_div_cancel_left _ (by decide : 0 < 8)]
  simp only [hhigh, bytesFirstLow_frameNumber_reverse]
  refine congrArg (· ++ _) ?_
  split
  · exact reverse_encode_of_marker ‹_›
  · rfl

/-- Settles O8: both numbers are read as the frame with zeros behind it, which decodes to the instruction. -/
theorem tableWordsDecodeUnderBothNumberings : Obligations.TableWordsDecodeUnderBothNumberings := by
  unfold Obligations.TableWordsDecodeUnderBothNumberings
  intro i hw
  have hdecode := decodeOfEncodeIsTheInstruction i (List.replicate (longestFrame - (encode i).length) 0) hw
  constructor
  · rw [decodeTableWord, tableBytes_frameNumber, paddedFrame, hdecode]
  · rw [decodeTableWord, tableBytes_frameNumber_reverse, paddedFrame, hdecode]

end Sys2Proof.Machine
end

section
/-! Proofs about runs of several steps: the scanner, a frame at the head of the queue, the end of a `RUN`, and the
write-then-read property. -/

namespace Sys2Proof.Machine

/-! ### Enabled actions, from the queue -/

/-- With no turn listed an awake Consumer takes the action that is enabled. -/
theorem step_of_enabled_alone {s : State} {a : Action} (hsched : s.env.sched = []) (hp : s.pw = .active)
    (ha : a.Enabled s) : step s = .next (a.apply s) :=
  (step_of_no_turns hsched).trans (consumerStep_of_enabled hp ha)

/-- A marker with a byte behind it at the head of the queue is matched (R123, R124). -/
theorem Invariants.enabled_matchMarker {s : State} (hi : Invariants s) (hs : s.ps = .idle) {c : Byte} {rest : List Byte}
    (hq : queue s = Config.marker ++ c :: rest) : Action.matchMarker.Enabled s := by
  have hocc : 4 < occupiedLength s := by
    rw [← hi.queue_length, hq]
    simp [Config.marker]
  refine ⟨hs, hocc, (hi.oldest_eq_next_iff hocc.le).mpr ?_⟩
  rw [hq]
  rfl

/-- Five bytes that do not start with the marker are resynchronised on (R123, R125). -/
theorem Invariants.enabled_resync {s : State} (hi : Invariants s) (hs : s.ps = .idle) (hlen : 4 < (queue s).length)
    (hm : (queue s).take 4 ≠ Config.marker) : Action.resync.Enabled s := by
  rw [hi.queue_length] at hlen
  exact ⟨hs, hlen, _, hi.oldest_eq hlen.le, hm⟩

/-- The head of the queue behind a matched marker is fetched (R126). -/
theorem Invariants.enabled_fetch {s : State} (hi : Invariants s) (hs : s.ps = .markerFound) {c : Byte} {rest : List Byte}
    (hq : queue s = c :: rest) : (Action.fetch c).Enabled s := by
  have hocc : 0 < occupiedLength s := by
    rw [← hi.queue_length, hq]
    simp
  refine ⟨hs, peek_of_read hocc ?_⟩
  rw [hi.memRead_eq hocc, hq]
  rfl

/-! ### The scanner -/

/-- The place `k + 1` after a counter value is the place `k` after the next. -/
theorem add_ofNat_succ (c : Byte) (k : Nat) : c + BitVec.ofNat 8 (k + 1) = c + 1 + BitVec.ofNat 8 k := by
  have hone : (1 : Byte).toNat = 1 := rfl
  apply BitVec.eq_of_toNat_eq
  simp only [BitVec.toNat_add, BitVec.toNat_ofNat, hone]
  omega

/-- Settles O25, by induction on the noise: each of its bytes is resynchronised over, then the marker is matched. -/
theorem scannerReachesTheFirstMarker : Obligations.ScannerReachesTheFirstMarker := by
  unfold Obligations.ScannerReachesTheFirstMarker
  intro s noise
  induction noise generalizing s with
  | nil =>
    intro rest c hi hp hs hsched hq _
    exact steps_of_step (step_of_enabled_alone hsched hp (hi.enabled_matchMarker hs hq)) 0
  | cons b noise ih =>
    intro rest c hi hp hs hsched hq hnoise
    have hlen : 4 < (queue s).length := by
      simp only [hq, List.length_append, List.length_cons]
      omega
    have hresync := hi.enabled_resync hs hlen (hnoise 0 (by simp))
    have hqueue : queue (Action.resync.apply s) = (queue s).drop 1 := hi.queue_apply hresync
    rw [List.length_cons, steps_of_step (step_of_enabled_alone hsched hp hresync),
      ih (Action.resync.apply s) rest c (hi.apply hp hresync) hp hs hsched (by rw [hqueue, hq]; rfl) ?_]
    · rw [show noise.length + 1 + 4 = noise.length + 4 + 1 by omega, add_ofNat_succ s.r]
      rfl
    · intro k hk
      rw [hqueue, List.drop_drop, Nat.add_comm]
      exact hnoise (k + 1) (by simpa using hk)

/-! ### A frame at the head of the queue -/

/-- The state in which a command byte behind the marker has been fetched (R124, R126). -/
def fetched (c : Byte) (s : State) : State :=
  { s with r := s.r + 5, cmd := c, ps := .dispatching }

/-- MATCH and CMDFETCH together. -/
theorem apply_fetch_matchMarker (c : Byte) (s : State) :
    (Action.fetch c).apply (Action.matchMarker.apply s) = fetched c s := by
  have hr : s.r + 4 + 1 = s.r + 5 := by
    rw [BitVec.add_assoc]
    rfl
  rw [fetched, ← hr]
  rfl

/-- What a frame at the head of the queue leads to: MATCH, then CMDFETCH, then a dispatch with the payload at the head. -/
structure FrameAhead (i : Instr) (rest : List Byte) (s : State) : Prop where
  marker : Action.matchMarker.Enabled s
  command : (Action.fetch i.cmdByte).Enabled (Action.matchMarker.apply s)
  invariants : Invariants (fetched i.cmdByte s)
  payload : queue (fetched i.cmdByte s) = i.payload ++ rest

/-- A frame at the head of the queue of an awake block in Idle leads there (R121). -/
theorem Invariants.frameAhead {s : State} (hi : Invariants s) (hp : s.pw = .active) (hs : s.ps = .idle) {i : Instr}
    {rest : List Byte} (hq : queue s = encode i ++ rest) : FrameAhead i rest s := by
  have hq' : queue s = Config.marker ++ i.cmdByte :: (i.payload ++ rest) := by
    rw [hq, encode, List.append_assoc, List.cons_append]
  have hmatch := hi.enabled_matchMarker hs hq'
  have hi' := hi.apply hp hmatch
  have hq1 : queue (Action.matchMarker.apply s) = i.cmdByte :: (i.payload ++ rest) := by
    rw [hi.queue_apply hmatch, hq']
    rfl
  have hfetch := hi'.enabled_fetch rfl hq1
  refine ⟨hmatch, hfetch, apply_fetch_matchMarker i.cmdByte s ▸ hi'.apply hp hfetch, ?_⟩
  rw [← apply_fetch_matchMarker, hi'.queue_apply hfetch, hq1]
  rfl

/-- The dispatch executes the well-formed instruction whose command byte was fetched and whose payload is at the head of
the queue (R127). -/
theorem Invariants.dispatchStep_eq_exec {s : State} (hi : Invariants s) {i : Instr} {rest : List Byte}
    (hw : i.wellFormed = true) (hc : s.cmd = i.cmdByte) (hq : queue s = i.payload ++ rest) :
    dispatchStep s = exec i s := by
  obtain rfl | ⟨p0, p1, p2, p3, rfl⟩ | ⟨hread, hwrite, hundef⟩ := wellFormed_cases hw
  · exact dispatchStep_read hc
  · exact hi.dispatchStep_write hc hq
  · rw [← hc] at hread hwrite hundef
    rw [dispatchStep_undef hread hwrite, ← exec_undefInstr, hundef]

/-- One step of several. -/
theorem steps_one (s : State) : steps 1 s = step s := by
  rw [steps]
  cases step s <;> rfl

/-- Settles O41: the frame is matched, its command byte fetched, and the instruction dispatched. -/
theorem frameAtTheHeadIsFetchedAndExecuted : Obligations.FrameAtTheHeadIsFetchedAndExecuted := by
  unfold Obligations.FrameAtTheHeadIsFetchedAndExecuted
  intro s i rest hi hp hs hsched hw hq
  have hframe := hi.frameAhead hp hs hq
  have htwo (k : Nat) : steps (k + 2) s = steps k (fetched i.cmdByte s) := by
    rw [steps_of_step (step_of_enabled_alone hsched hp hframe.marker),
      steps_of_step (step_of_enabled_alone (s := Action.matchMarker.apply s) hsched hp hframe.command),
      apply_fetch_matchMarker]
  have hexec : step (fetched i.cmdByte s) = exec i (fetched i.cmdByte s) := by
    rw [step_of_no_turns (s := fetched i.cmdByte s) hsched, consumerStep_dispatching (s := fetched i.cmdByte s) hp rfl]
    exact hframe.invariants.dispatchStep_eq_exec hw rfl hframe.payload
  refine ⟨htwo 0, ?_⟩
  rw [htwo 1, steps_one]
  exact hexec

/-! ### The end of a RUN -/

/-- Every action of an awake Consumer lowers the measure of its work (D22). -/
theorem Invariants.work_apply_lt {s : State} (hi : Invariants s) (hp : s.pw = .active) {a : Action} (ha : a.Enabled s) :
    work (a.apply s) < work s := by
  cases a with
  | matchMarker =>
    obtain ⟨hs, hocc, -⟩ := ha
    have hbefore : work s = occupiedLength s + 6 := by simp [work, hp, hs]
    have hafter : work (Action.matchMarker.apply s) = 6 := by simp [work, Action.apply, hp]
    omega
  | resync =>
    obtain ⟨hs, hocc, -⟩ := ha
    have hleft : occupiedLength (s.setR (s.r + 1)) = occupiedLength s - 1 := occupied_setR (n := 1) (by omega)
    have hbefore : work s = occupiedLength s + 6 := by simp [work, hp, hs]
    have hafter : work (Action.resync.apply s) = occupiedLength s - 1 + 6 := by
      simp only [work, Action.apply, setR_pw, setR_ps, hp, hs, hleft]
    omega
  | fetch c =>
    have htxi := hi.txi_eq_zero (by simp [ha.1])
    by_cases hc : isRead c <;> simp [work, Action.apply, hp, ha.1, htxi, hc]
  | send =>
    obtain ⟨hs, hc, -, htxi⟩ := ha
    have hnext := val_txi_succ s.txi htxi
    have hbefore : work s = 4 - s.txi.val := by simp [work, hp, hs, hc, isRead]
    have hafter : work (Action.send.apply s) = 4 - (s.txi + 1).val := by simp [work, Action.apply, hp, hs, hc, isRead]
    omega
  | sendLast =>
    obtain ⟨hs, hc, -, htxi⟩ := ha
    simp [work, Action.apply, hp, hs, hc, htxi, isRead]
  | capture | undef =>
    obtain ⟨hs, hc, -⟩ := ha
    simp [work, Action.apply, hp, hs, hc, isRead]

/-- A full buffer in Idle has the most work (D22). -/
theorem Invariants.work_le {s : State} (hi : Invariants s) : work s ≤ 21 := by
  have hbound := hi.bound
  unfold work
  repeat' split
  all_goals omega

/-- In a `RUN` the Consumer's action leaves the turn in place (R94). -/
theorem step_of_enabled_run {s : State} {a : Action} {rest : List Turn} (hsched : s.env.sched = .run :: rest)
    (hp : s.pw = .active) (ha : a.Enabled s) : step s = .next (a.apply s) := by
  have hturn : nextTurn s = .run := by rw [nextTurn, hsched]
  have hleft : turnsLeft s = s.env.sched := by rw [turnsLeft, if_pos hturn, hsched, List.tail_cons]
  rw [step_of_enabled (.inr hturn) hp ha, hleft, ← a.apply_setSched]
  rfl

/-- A `RUN` ends within one step more than its work, by induction on the work: each action lowers it, and with none
enabled the turn is taken off. -/
theorem run_ends {s : State} {rest : List Turn} (hi : Invariants s) (hsched : s.env.sched = .run :: rest) :
    ∃ k t, k ≤ work s + 1 ∧ steps k s = .next t ∧ t.env.sched = rest ∧ consumerEnabled t = false ∧ Invariants t := by
  induction hwork : work s using Nat.strong_induction_on generalizing s with
  | _ n ih =>
    have hturn : nextTurn s = .run := by rw [nextTurn, hsched]
    cases he : consumerEnabled s with
    | false =>
      exact ⟨1, afterTurn s, by omega, (steps_one s).trans (step_of_not_enabled (.inr hturn) he),
        by rw [afterTurn, setSched_sched, hsched, List.tail_cons], he, hi.setSched _⟩
    | true =>
      obtain ⟨u, hu⟩ := hi.consumerStep_answers
      obtain ⟨hp, a, ha⟩ := exists_action_of_enabled he hu
      have hless := hi.work_apply_lt hp ha
      obtain ⟨k, t, hk, hsteps, hend⟩ :=
        ih (work (a.apply s)) (by omega) (hi.apply hp ha) ((a.apply_sched s).trans hsched) rfl
      exact ⟨k + 1, t, by omega, (steps_of_step (step_of_enabled_run hsched hp ha) k).trans hsteps, hend⟩

/-- Settles O59: no state has more than 21 units of work. -/
theorem runEndsWithinTwentyTwoSteps : Obligations.RunEndsWithinTwentyTwoSteps := by
  unfold Obligations.RunEndsWithinTwentyTwoSteps
  intro s rest hi hsched
  obtain ⟨k, t, hk, hend⟩ := run_ends hi hsched
  have hwork := hi.work_le
  exact ⟨k, t, by omega, hend⟩

/-! ### A WRITE and a READ -/

/-- Several steps of the abstract block are the machine's, step for step. -/
theorem Invariants.abstractView_steps {s : State} (hi : Invariants s) (k : Nat) :
    ∃ t, steps k s = .next t ∧ abstractView t = Abs.step^[k] (abstractView s) := by
  induction k generalizing s with
  | zero => exact ⟨s, rfl, rfl⟩
  | succ k ih =>
    obtain ⟨u, hu, hview⟩ := blockRefinesABoundedQueue s hi
    obtain ⟨t, ht, hsteps⟩ := ih (everyStepKeepsTheInvariants s u hi hu)
    exact ⟨t, (steps_of_step hu k).trans ht, by rw [hsteps, hview, Function.iterate_succ_apply]⟩

/-- The abstract block receives bytes while there is room (R101, R164). -/
theorem abs_steps_rx (bytes : List Byte) {a : Abs} {rest : List Turn} (hsched : a.env.sched = rxTurns bytes ++ rest)
    (hroom : a.queue.length + bytes.length ≤ 15) (hwake : bytes ≠ [] ∨ a.pw = .active) :
    Abs.step^[bytes.length] a =
      { a with queue := a.queue ++ bytes, pw := .active, env := { a.env with sched := rest } } := by
  induction bytes generalizing a with
  | nil =>
    obtain ⟨queue, sv, ps, cmd, txi, pw, sched, txReady, tx⟩ := a
    simp_all [rxTurns]
  | cons b bytes ih =>
    simp only [List.length_cons] at hroom
    have hstep : Abs.step a =
        { a with queue := a.queue ++ [b], pw := .active, env := { a.env with sched := rxTurns bytes ++ rest } } := by
      have hlen : a.queue.length < 15 := by omega
      simp [Abs.step, hsched, rxTurns, Abs.turn, Abs.rx, hlen]
    rw [List.length_cons, Function.iterate_succ_apply, hstep, ih rfl (by simp; omega) (.inr rfl)]
    simp

/-- The abstract block's `RUN` with a WRITE's frame queued: match, fetch, capture, and the end of the turn. -/
theorem abs_run_write (sv : StoredValue) (cmd : Byte) (tx : List Byte) (v0 v1 v2 v3 : Byte) (rest : List Turn) :
    Abs.step^[4] ⟨encode (.write v0 v1 v2 v3), sv, .idle, cmd, 0, .active, ⟨.run :: rest, true, tx⟩⟩ =
      ⟨[], ⟨v0, v1, v2, v3⟩, .idle, 2, 0, .asleep, ⟨rest, true, tx⟩⟩ :=
  rfl

/-- The abstract block's first two steps of a `RUN` with a READ's frame queued: match and fetch. -/
theorem abs_run_fetch_read (sv : StoredValue) (cmd : Byte) (tx : List Byte) (rest : List Turn) :
    Abs.step^[2] ⟨encode .read, sv, .idle, cmd, 0, .active, ⟨.run :: rest, true, tx⟩⟩ =
      ⟨[], sv, .dispatching, 1, 0, .active, ⟨.run :: rest, true, tx⟩⟩ :=
  rfl

/-- A byte of the abstract block's reply before the last (R141). -/
theorem abs_step_send (sv : StoredValue) (tx : List Byte) (rest : List Turn) {i : Fin 4} (h : i ≠ 3) :
    Abs.step ⟨[], sv, .dispatching, 1, i, .active, ⟨.run :: rest, true, tx⟩⟩ =
      ⟨[], sv, .dispatching, 1, i + 1, .active, ⟨.run :: rest, true, tx ++ [sv.byte i]⟩⟩ := by
  simp [Abs.step, Abs.turn, Abs.enabled, Abs.work, Abs.reply, h]

/-- The abstract block's reply from its first byte on, and the end of the turn. -/
theorem abs_run_reply (sv : StoredValue) (tx : List Byte) (rest : List Turn) :
    Abs.step^[5] ⟨[], sv, .dispatching, 1, 0, .active, ⟨.run :: rest, true, tx⟩⟩ =
      ⟨[], sv, .idle, 1, 0, .asleep, ⟨rest, true, tx ++ sv.bytes⟩⟩ := by
  have hlast (tx : List Byte) :
      Abs.step^[2] ⟨[], sv, .dispatching, 1, 3, .active, ⟨.run :: rest, true, tx⟩⟩ =
        ⟨[], sv, .idle, 1, 0, .asleep, ⟨rest, true, tx ++ [sv.b3]⟩⟩ := rfl
  calc Abs.step^[5] ⟨[], sv, .dispatching, 1, 0, .active, ⟨.run :: rest, true, tx⟩⟩
    _ = Abs.step^[4] ⟨[], sv, .dispatching, 1, 1, .active, ⟨.run :: rest, true, tx ++ [sv.b0]⟩⟩ :=
      congrArg (Abs.step^[4]) (abs_step_send sv tx rest (i := 0) (by decide))
    _ = Abs.step^[3] ⟨[], sv, .dispatching, 1, 2, .active, ⟨.run :: rest, true, tx ++ [sv.b0] ++ [sv.b1]⟩⟩ :=
      congrArg (Abs.step^[3]) (abs_step_send sv _ rest (i := 1) (by decide))
    _ = Abs.step^[2] ⟨[], sv, .dispatching, 1, 3, .active, ⟨.run :: rest, true, tx ++ [sv.b0] ++ [sv.b1] ++ [sv.b2]⟩⟩ :=
      congrArg (Abs.step^[2]) (abs_step_send sv _ rest (i := 2) (by decide))
    _ = ⟨[], sv, .idle, 1, 0, .asleep, ⟨rest, true, tx ++ sv.bytes⟩⟩ := by
      rw [hlast]
      simp [StoredValue.bytes]

/-- From an empty queue the abstract block stores the value of a WRITE in 13 steps: nine bytes received and a `RUN`. -/
theorem abs_write (sv : StoredValue) (cmd : Byte) (pw : PowerState) (tx : List Byte) (v0 v1 v2 v3 : Byte)
    (rest : List Turn) :
    Abs.step^[13]
        ⟨[], sv, .idle, cmd, 0, pw, ⟨(Stimulus.write v0 v1 v2 v3).turns ++ .run :: rest, true, tx⟩⟩ =
      ⟨[], ⟨v0, v1, v2, v3⟩, .idle, 2, 0, .asleep, ⟨rest, true, tx⟩⟩ := by
  have hreceived := abs_steps_rx (encode (.write v0 v1 v2 v3)) (rest := .run :: rest)
    (a := ⟨[], sv, .idle, cmd, 0, pw, ⟨(Stimulus.write v0 v1 v2 v3).turns ++ .run :: rest, true, tx⟩⟩)
    rfl (by simp [encode, Config.marker, Instr.payload]) (.inl (by simp [encode]))
  rw [show 13 = 4 + (encode (.write v0 v1 v2 v3)).length from rfl, Function.iterate_add_apply, hreceived]
  exact abs_run_write sv cmd tx v0 v1 v2 v3 rest

/-- From an empty queue the abstract block replies to a READ in 12 steps: five bytes received and a `RUN`. -/
theorem abs_read (sv : StoredValue) (cmd : Byte) (pw : PowerState) (tx : List Byte) (rest : List Turn) :
    Abs.step^[12] ⟨[], sv, .idle, cmd, 0, pw, ⟨Stimulus.read.turns ++ .run :: rest, true, tx⟩⟩ =
      ⟨[], sv, .idle, 1, 0, .asleep, ⟨rest, true, tx ++ sv.bytes⟩⟩ := by
  have hreceived := abs_steps_rx (encode .read) (rest := .run :: rest)
    (a := ⟨[], sv, .idle, cmd, 0, pw, ⟨Stimulus.read.turns ++ .run :: rest, true, tx⟩⟩)
    rfl (by simp [encode, Config.marker, Instr.payload]) (.inl (by simp [encode]))
  rw [show 12 = (5 + 2) + (encode .read).length from rfl, Function.iterate_add_apply, hreceived,
    Function.iterate_add_apply]
  exact (congrArg _ (abs_run_fetch_read sv cmd tx rest)).trans (abs_run_reply sv tx rest)

/-- Settles O60: the machine's steps are the abstract block's, whose runs of the two commands are known. -/
theorem writtenValueIsReadBack : Obligations.WrittenValueIsReadBack := by
  unfold Obligations.WrittenValueIsReadBack
  intro s v0 v1 v2 v3 hi hs hq hready hsched
  have htxi := hi.txi_eq_zero (by simp [hs])
  have henv : s.env = ⟨(Stimulus.write v0 v1 v2 v3).turns ++ .run :: (Stimulus.read.turns ++ [.run]), true, s.env.tx⟩ := by
    calc s.env = ⟨s.env.sched, s.env.txReady, s.env.tx⟩ := rfl
      _ = _ := by rw [hsched, hready]; simp only [List.append_assoc, List.cons_append, List.nil_append]
  have hview : abstractView s = ⟨[], s.sv, .idle, s.cmd, 0, s.pw, s.env⟩ := by
    rw [abstractView, hq, hs, htxi]
  have hwrite : Abs.step^[13] (abstractView s) =
      ⟨[], ⟨v0, v1, v2, v3⟩, .idle, 2, 0, .asleep, ⟨Stimulus.read.turns ++ [.run], true, s.env.tx⟩⟩ := by
    rw [hview, henv]
    exact abs_write s.sv s.cmd s.pw s.env.tx v0 v1 v2 v3 _
  have hread : Abs.step^[25] (abstractView s) =
      ⟨[], ⟨v0, v1, v2, v3⟩, .idle, 1, 0, .asleep, ⟨[], true, s.env.tx ++ [v0, v1, v2, v3]⟩⟩ := by
    rw [show 25 = 12 + 13 from rfl, Function.iterate_add_apply, hwrite]
    exact abs_read ⟨v0, v1, v2, v3⟩ 2 .asleep s.env.tx []
  obtain ⟨m, hm, hmview⟩ := hi.abstractView_steps 13
  obtain ⟨t, ht, htview⟩ := hi.abstractView_steps 25
  rw [hwrite] at hmview
  rw [hread] at htview
  exact ⟨⟨m, hm, congrArg Abs.sv hmview, congrArg (fun a => a.env.tx) hmview, congrArg Abs.pw hmview⟩,
    ⟨t, ht, congrArg Abs.sv htview, congrArg (fun a => a.env.tx) htview, congrArg Abs.pw htview,
      congrArg Abs.ps htview, congrArg Abs.queue htview, congrArg (fun a => a.env.sched) htview⟩⟩

end Sys2Proof.Machine
end

section
/-! Proofs about a placed table word: what the placing stores, and that the next step executes the instruction. -/

namespace Sys2Proof.Machine

/-! ### Storing bytes -/

/-- Storing bytes changes `BUF` only. -/
theorem storeBytes_eq (bytes : List Byte) (a : Byte) (s : State) :
    storeBytes bytes a s = { s with buf := (storeBytes bytes a s).buf } := by
  induction bytes generalizing a s with
  | nil => rfl
  | cons b bytes ih => exact ih (a + 1) (memWrite a b s)

/-- Storing bytes keeps the canonical form. -/
theorem wf_storeBytes {bytes : List Byte} {a : Byte} {s : State} (h : s.buf.wf = true) :
    (storeBytes bytes a s).buf.wf = true := by
  induction bytes generalizing a s with
  | nil => exact h
  | cons b bytes ih => exact ih (wf_write b h (slotOf_lt a))

/-- Storing bytes leaves the slots behind them alone. -/
theorem memRead_storeBytes_of_le {bytes : List Byte} {a : Byte} {s : State} {k : Nat} (hle : bytes.length ≤ k)
    (hk : k < 16) : memRead (storeBytes bytes a s) (a + BitVec.ofNat 8 k) = memRead s (a + BitVec.ofNat 8 k) := by
  induction bytes generalizing a s k with
  | nil => rfl
  | cons b bytes ih =>
    cases k with
    | zero => simp at hle
    | succ k =>
      have hother : slotOf (a + BitVec.ofNat 8 (k + 1)) ≠ slotOf a := by
        simpa using slotOf_ne (r := a) (j := k + 1) (k := 0) hk (by omega) (by omega)
      have hrest : memRead (memWrite a b s) (a + BitVec.ofNat 8 (k + 1)) = memRead s (a + BitVec.ofNat 8 (k + 1)) :=
        read_write_other s.buf b hother
      rw [← hrest, add_ofNat_succ]
      exact ih (by simpa using hle) (by omega)

/-- Stored bytes are read back in their places, up to a whole buffer. -/
theorem memRead_storeBytes {bytes : List Byte} {a : Byte} {s : State} {k : Nat} {b : Byte} (hlen : bytes.length ≤ 16)
    (hk : bytes[k]? = some b) : memRead (storeBytes bytes a s) (a + BitVec.ofNat 8 k) = some b := by
  induction bytes generalizing a s k with
  | nil => simp at hk
  | cons c bytes ih =>
    cases k with
    | zero =>
      obtain rfl : c = b := by simpa using hk
      have hplace : slotOf (a + 1 + BitVec.ofNat 8 15) = slotOf (a + BitVec.ofNat 8 0) := by
        rw [← add_ofNat_succ, slotOf_add, slotOf_add]
        omega
      have hkept : memRead (storeBytes bytes (a + 1) (memWrite a c s)) (a + 1 + BitVec.ofNat 8 15) =
          memRead (memWrite a c s) (a + 1 + BitVec.ofNat 8 15) :=
        memRead_storeBytes_of_le (Nat.le_of_succ_le_succ hlen) (by decide)
      simp only [memRead, hplace] at hkept
      simpa [memRead, storeBytes] using hkept
    | succ k =>
      rw [add_ofNat_succ]
      exact ih (by simp at hlen; omega) (by simpa using hk)

/-! ### The placed frame -/

/-- The frame filled with zeros has the length of the longest frame, nine bytes. -/
theorem length_paddedFrame (i : Instr) : (paddedFrame i).length = 9 := by
  cases i <;> rfl

/-- The frame filled with zeros holds the frame's bytes, then zeros. -/
theorem getElem?_paddedFrame (i : Instr) {k : Nat} (hk : k < 9) :
    (paddedFrame i)[k]? = (encode i ++ [0, 0, 0, 0])[k]? := by
  cases i with
  | write => exact (List.getElem?_append_left hk).symm
  | read | undef00 | undef03 | undef04to07 | undef08to0F | undef10to1F | undef20to3F | undef40to7F | undef80toFF => rfl

/-- The state in which an instruction's frame is the whole window, the parser scanning. -/
def placed (i : Instr) (s : State) : State :=
  placeFrame (paddedFrame i) s

/-- Every place of the placed window holds its byte. -/
theorem memRead_placed (i : Instr) (s : State) {k : Nat} {b : Byte} (hk : (paddedFrame i)[k]? = some b) :
    memRead (placed i s) (s.r + BitVec.ofNat 8 k) = some b :=
  memRead_storeBytes (s := s) (by rw [length_paddedFrame]; decide) hk

/-- The slots behind the placed window keep their bytes. -/
theorem memRead_placed_of_le (i : Instr) (s : State) {k : Nat} (hle : 9 ≤ k) (hk : k < 16) :
    memRead (placed i s) (s.r + BitVec.ofNat 8 k) = memRead s (s.r + BitVec.ofNat 8 k) :=
  memRead_storeBytes_of_le (s := s) (by rwa [length_paddedFrame]) hk

/-- Placing changes `BUF`, `W`, `PS`, `TXI` and `PW`, and lists a turn of the Consumer first. -/
theorem placed_eq (i : Instr) (s : State) :
    placed i s =
      { s with buf := (placed i s).buf, w := s.r + 9, ps := .idle, txi := 0, pw := .active,
               env := { s.env with sched := .consumer :: s.env.sched } } := by
  rw [placed, placeFrame, length_paddedFrame, storeBytes_eq]
  rfl

/-- The placed window is nine bytes long. -/
theorem occupiedLength_placed (i : Instr) (s : State) : occupiedLength (placed i s) = 9 := by
  rw [occupiedLength, placed_eq]
  simp

/-- The placed state satisfies the invariants: nine bytes, all written. -/
theorem invariants_placed (i : Instr) {s : State} (h : s.buf.wf = true) : Invariants (placed i s) := by
  have hocc := occupiedLength_placed i s
  have hr : (placed i s).r = s.r := by rw [placed_eq]
  refine ⟨by omega, fun k hk => ?written, ?fetched, ?asleepIdle, ?txiZero, wf_storeBytes h⟩
  case written =>
    have hk' : k < (paddedFrame i).length := by rw [length_paddedFrame]; omega
    rw [hr, memRead_placed i s (List.getElem?_eq_getElem hk')]
    rfl
  case fetched | asleepIdle | txiZero =>
    rw [placed_eq]
    simp

/-- The queue of the placed state is the frame filled with zeros. -/
theorem queue_placed (i : Instr) {s : State} (h : s.buf.wf = true) : queue (placed i s) = paddedFrame i := by
  have hi := invariants_placed i h
  have hocc := occupiedLength_placed i s
  have hr : (placed i s).r = s.r := by rw [placed_eq]
  refine List.ext_getElem? fun k => ?_
  by_cases hk : k < 9
  · have hk' : k < (paddedFrame i).length := by rwa [length_paddedFrame]
    rw [← hi.memRead_eq (by omega), hr, List.getElem?_eq_getElem hk', memRead_placed i s (List.getElem?_eq_getElem hk')]
  · rw [List.getElem?_eq_none (by rw [hi.queue_length]; omega), List.getElem?_eq_none (by rw [length_paddedFrame]; omega)]

/-- The two fetch steps of a frame at the head of the queue (R124, R126). -/
theorem FrameAhead.fetchFrame_eq {i : Instr} {rest : List Byte} {s : State} (h : FrameAhead i rest s) (hp : s.pw = .active) :
    fetchFrame s = fetched i.cmdByte s := by
  have hs : s.ps = .idle := h.marker.1
  have hmatch : idleStep s = .next (Action.matchMarker.apply s) :=
    (consumerStep_idle hp hs).symm.trans (consumerStep_of_enabled hp h.marker)
  have hfetch : cmdFetch (Action.matchMarker.apply s) = .next (fetched i.cmdByte s) := by
    rw [← consumerStep_markerFound (s := Action.matchMarker.apply s) hp rfl, ← apply_fetch_matchMarker]
    exact consumerStep_of_enabled hp h.command
  simp only [fetchFrame, hmatch, nextOr, hfetch]
  exact if_pos rfl

/-- Settles O42: the placed frame is fetched, so the next step, a turn of the Consumer, dispatches its instruction. -/
theorem placedTableWordIsExecutedNext : Obligations.PlacedTableWordIsExecutedNext := by
  unfold Obligations.PlacedTableWordIsExecutedNext
  intro i s hw hwf
  have hp : (placed i s).pw = .active := by rw [placed_eq]
  have hs : (placed i s).ps = .idle := by rw [placed_eq]
  have hframe := (invariants_placed i hwf).frameAhead hp hs (queue_placed i hwf)
  have hplaced := placed_eq i s
  refine ⟨afterTurn (fetched i.cmdByte (placed i s)), ?frame, fun k b hk hb => ?inside, fun k hle hk => ?outside,
    ?occupied, ?executed⟩
  case frame => exact congrArg (fun p => afterTurn (fetched i.cmdByte p)) hplaced
  case inside =>
    rw [← slotOf_add]
    exact memRead_placed i s ((getElem?_paddedFrame i hk).trans hb)
  case outside =>
    rw [← slotOf_add]
    exact memRead_placed_of_le i s hle hk
  case occupied =>
    have hocc := occupiedLength_placed i s
    have hleft := occupied_setR (s := placed i s) (n := 5) (by omega)
    rw [hocc] at hleft
    exact hleft
  case executed =>
    have hturn : nextTurn (fetched i.cmdByte (placed i s)) = .consumer := by
      rw [hplaced]
      rfl
    have hinv : Invariants (afterTurn (fetched i.cmdByte (placed i s))) := hframe.invariants.setSched _
    rw [State.withFetchWord, fetchTableWord, tableBytes_frameNumber]
    change step (fetchFrame (placed i s)) = _
    rw [hframe.fetchFrame_eq hp, step_eq_takeTurn, hturn]
    exact (consumerStep_dispatching (s := afterTurn (fetched i.cmdByte (placed i s))) hp rfl).trans
      (hinv.dispatchStep_eq_exec hw rfl hframe.payload)

end Sys2Proof.Machine
end
